-- ==== Sys2Proof/Word.lean ====
section
/-! DEFINITION. The word types of the register file and of the transaction stream (spec 10_state.md R30,
30_encoding.md R131, R143). -/

namespace Sys2Proof

/-- A 32-bit register word; an f32 register holds a binary32 bit pattern (00_scope.md R17, 20_memory.md R104). -/
abbrev Word := BitVec 32

/-- A 16-bit quantity: a raw sample, a compare value, an electrical angle (00_scope.md R15, R16). -/
abbrev Half := BitVec 16

/-- An 8-bit quantity. -/
abbrev Byte := BitVec 8

/-- One word of the stream that drives the block: the 48-bit head of a transaction, the 64-bit sample word that
follows a TICK head (30_encoding.md R131, R137), or, in the model only, a lone micro-operation id (R143; log entry 3).
DESIGN CHOICE: the spec gives a head and a sample word no byte order on a wire, so the stream holds whole words
(log entry 2; safe). -/
inductive BusWord where
  | head (h : BitVec 48)
  | sample (w : BitVec 64)
  | uop (id : BitVec 6)
  deriving DecidableEq, Repr

end Sys2Proof
end

