-- ==== Sys2Proof/Syntax.lean ====
section
/-! DEFINITION. The instruction set: one constructor per row of spec/opcode_table.json. Six transactions and commands
(30_encoding.md R132 to R139) and thirty micro-operations (R143). -/

namespace Sys2Proof

/-- The instructions. Operands are the encoding's own fields, unscaled (30_encoding.md R138). -/
inductive Instr where
  /-- RD: read the register at byte address `addr` (R133, R370). -/
  | rd (addr : BitVec 12)
  /-- WR: write `data` to the register at byte address `addr` (R134, R371). -/
  | wr (addr : BitVec 12) (data : Word)
  /-- TICK: present the input ports and run one fast cycle (R135, R372). -/
  | tick (hwbrk : BitVec 1) (probe : BitVec 4) (hall : BitVec 3) (ia ib ic vbus : Half)
  /-- RESET (R136, R373). -/
  | reset
  /-- FAULT_RESET: a WR to CMD with data bit 0 set; `clearDirty` is data bit 1, `ignored` is data [31:2] (R139, R376). -/
  | faultReset (clearDirty : BitVec 1) (ignored : BitVec 30)
  /-- CLEAR_DIRTY: a WR to CMD with data bit 1 set and bit 0 clear; `ignored` is data [31:2] (R139, R377). -/
  | clearDirty (ignored : BitVec 30)
  /-- SAMPLE: latch the input ports (R161). -/
  | sample
  /-- CONVERT: raw samples to physical units (R162). -/
  | convert
  /-- WARMUP: offset warm-up average (R163). -/
  | warmup
  /-- CLARK3: three-phase Clark transform (R165). -/
  | clark3
  /-- CLARK2_XA: two-phase Clark, phase a excluded (R166). -/
  | clark2Xa
  /-- CLARK2_XB: two-phase Clark, phase b excluded (R167). -/
  | clark2Xb
  /-- CLARK2_XC: two-phase Clark, phase c excluded (R168). -/
  | clark2Xc
  /-- PARK: Park transform with the previous sine and cosine (R169). -/
  | park
  /-- PROTECT: threshold monitor (R201). -/
  | protect
  /-- HALL: Hall edge detector and angle lookup (R220). -/
  | hall
  /-- FLUX: back-EMF flux integrator (R222). -/
  | flux
  /-- TRACK: angle-tracking filter (R225). -/
  | track
  /-- SINCOS: sine and cosine of THETA (R170). -/
  | sincos
  /-- PI: current controller (R260, R261). -/
  | pi
  /-- INVPARK: inverse Park transform (R262). -/
  | invpark
  /-- INVCLARK: inverse Clark transform (R263). -/
  | invclark
  /-- SVPWM: midpoint-clamp duty computation (R264). -/
  | svpwm
  /-- PWMOUT: drive the compare values, all phases enabled (R265). -/
  | pwmout
  /-- FSM: Idle and Measuring transition checks (R302). -/
  | fsm
  /-- MEAS_RL: resistance and inductance identification step (R331). -/
  | measRl
  /-- GAINCALC: PI gain recalculation (R335). -/
  | gaincalc
  /-- HL_ALIGN: Hall learning, rotor alignment step (R340). -/
  | hlAlign
  /-- HL_FWD: Hall learning, forward sweep step (R342). -/
  | hlFwd
  /-- HL_REV: Hall learning, backward sweep step (R343). -/
  | hlRev
  /-- HL_FINISH: Hall learning, build the table (R344). -/
  | hlFinish
  /-- INJECT: Hall learning, d-axis voltage injection (R345). -/
  | inject
  /-- BREAK: software break (R266). -/
  | brk
  /-- OUTOFF: phase outputs inactive (R267). -/
  | outoff
  /-- DETECT: Hall presence probe decision (R305). -/
  | detect
  /-- CLARKSEL: Clark variant selection (R164). -/
  | clarksel
  deriving DecidableEq, Repr

end Sys2Proof
end

