-- ==== Sys2Proof/WellFormed.lean ====
section
/-! DEFINITION. Which terms of Instr stand for an encoding. Every operand's width is in its type, so ONE check is left:
a WR to CMD that carries a command bit is written as FAULT_RESET or CLEAR_DIRTY (30_encoding.md R139). -/

namespace Sys2Proof

/-- The byte address of CMD (10_state.md R35). -/
def cmdAddr : BitVec 12 := 0x008

/-- A WR's operands are well formed unless they are those of a command row (30_encoding.md R139). -/
def wrOperandsOk (addr : BitVec 12) (data : Word) : Bool :=
  !(addr == cmdAddr && (data.getLsbD 0 || data.getLsbD 1))

/-- The well-formed instructions. -/
def Instr.wellFormed : Instr → Bool
  | .wr addr data => wrOperandsOk addr data
  | .rd _ | .tick _ _ _ _ _ _ _ | .reset | .faultReset _ _ | .clearDirty _ => true
  | .sample | .convert | .warmup | .clark3 | .clark2Xa | .clark2Xb | .clark2Xc | .park => true
  | .protect | .hall | .flux | .track | .sincos | .pi | .invpark | .invclark | .svpwm | .pwmout => true
  | .fsm | .measRl | .gaincalc | .hlAlign | .hlFwd | .hlRev | .hlFinish | .inject => true
  | .brk | .outoff | .detect | .clarksel => true

end Sys2Proof
end

