-- ==== Sys2Proof/Decode.lean ====
section
/-! DEFINITION. The decoder, total on any stream of words and rejecting by name (30_encoding.md R131 to R144), the
encoder written from the same tables, and the host's word interface `decodeTableWord`. -/

namespace Sys2Proof

/-- Why a stream decodes to no instruction. -/
inductive DecodeError where
  /-- The stream is empty: no transaction is presented. -/
  | noTransaction
  /-- A head with a reserved bit set (R140). -/
  | reservedBits
  /-- A TICK head with no sample word after it: the decoder reads 64 more bits (R137) and finds none. -/
  | missingSample
  /-- A sample word where a head is due. -/
  | straySample
  /-- A reserved uop id: 0x00, 0x1F to 0x3F (R144). -/
  | reservedUop
  deriving DecidableEq, Repr

/-- Head field OP, bits [47:46] (R132). -/
def headOp (h : BitVec 48) : BitVec 2 := h.extractLsb' 46 2

/-- Head bits [45:44], reserved (R132). -/
def headReserved (h : BitVec 48) : BitVec 2 := h.extractLsb' 44 2

/-- Head field ADDR, bits [43:32] (R132). -/
def headAddr (h : BitVec 48) : BitVec 12 := h.extractLsb' 32 12

/-- Head field DATA, bits [31:0] (R132). -/
def headData (h : BitVec 48) : Word := h.extractLsb' 0 32

/-- A WR head's instruction: the two CMD rows are specialisations of WR, FAULT_RESET first (R139). -/
def decodeWr (addr : BitVec 12) (data : Word) : Instr :=
  if addr = cmdAddr ∧ data.getLsbD 0 then .faultReset (data.extractLsb' 1 1) (data.extractLsb' 2 30)
  else if addr = cmdAddr ∧ data.getLsbD 1 then .clearDirty (data.extractLsb' 2 30)
  else .wr addr data

/-- A TICK's instruction, from its head's port field and its sample word (R135). -/
def decodeTick (ports : BitVec 12) (w : BitVec 64) : Instr :=
  .tick (ports.extractLsb' 7 1) (ports.extractLsb' 3 4) (ports.extractLsb' 0 3)
    (w.extractLsb' 0 16) (w.extractLsb' 16 16) (w.extractLsb' 32 16) (w.extractLsb' 48 16)

/-- The reserved bits of a head are all zero (R140): bits [45:44] for any OP; DATA for RD, TICK and RESET; ADDR for
RESET; bits [43:40] of the port field for TICK. -/
def headLegal (h : BitVec 48) : Bool :=
  headReserved h == 0 &&
  match (headOp h).toNat with
  | 0 => headData h == 0
  | 1 => true
  | 2 => headData h == 0 && (headAddr h).extractLsb' 8 4 == 0
  | _ => headData h == 0 && headAddr h == 0

/-- The uop of an id, as R143's table assigns them; the other ids are reserved (R144). -/
def decodeUop (id : BitVec 6) : Option Instr :=
  match id.toNat with
  | 0x01 => some .sample
  | 0x02 => some .convert
  | 0x03 => some .warmup
  | 0x04 => some .clark3
  | 0x05 => some .clark2Xa
  | 0x06 => some .clark2Xb
  | 0x07 => some .clark2Xc
  | 0x08 => some .park
  | 0x09 => some .protect
  | 0x0A => some .hall
  | 0x0B => some .flux
  | 0x0C => some .track
  | 0x0D => some .sincos
  | 0x0E => some .pi
  | 0x0F => some .invpark
  | 0x10 => some .invclark
  | 0x11 => some .svpwm
  | 0x12 => some .pwmout
  | 0x13 => some .fsm
  | 0x14 => some .measRl
  | 0x15 => some .gaincalc
  | 0x16 => some .hlAlign
  | 0x17 => some .hlFwd
  | 0x18 => some .hlRev
  | 0x19 => some .hlFinish
  | 0x1A => some .inject
  | 0x1B => some .brk
  | 0x1C => some .outoff
  | 0x1D => some .detect
  | 0x1E => some .clarksel
  | _ => none

/-- Read one instruction from the front of the stream and give the rest of it (R137: the length is decided by OP
alone). -/
def decode : List BusWord → Except DecodeError (Instr × List BusWord)
  | [] => .error .noTransaction
  | .uop id :: rest =>
    match decodeUop id with
    | some i => .ok (i, rest)
    | none => .error .reservedUop
  | .sample _ :: _ => .error .straySample
  | .head h :: rest =>
    if headLegal h then
      match (headOp h).toNat with
      | 0 => .ok (.rd (headAddr h), rest)
      | 1 => .ok (decodeWr (headAddr h) (headData h), rest)
      | 2 =>
        match rest with
        | .sample w :: rest' => .ok (decodeTick (headAddr h) w, rest')
        | _ => .error .missingSample
      | _ => .ok (.reset, rest)
    else .error .reservedBits

/-! ## The encoder -/

/-- A head from its fields, format HEAD (R132). -/
def mkHead (op : BitVec 2) (addr : BitVec 12) (data : Word) : BitVec 48 :=
  op ++ (0 : BitVec 2) ++ addr ++ data

/-- The port field of a TICK head (R135). -/
def mkPorts (hwbrk : BitVec 1) (probe : BitVec 4) (hall : BitVec 3) : BitVec 12 :=
  (0 : BitVec 4) ++ hwbrk ++ probe ++ hall

/-- The sample word of a TICK (R135). -/
def mkSample (ia ib ic vbus : Half) : BitVec 64 := vbus ++ ic ++ ib ++ ia

/-- The words of an instruction. -/
def encode : Instr → List BusWord
  | .rd addr => [.head (mkHead 0 addr 0)]
  | .wr addr data => [.head (mkHead 1 addr data)]
  | .tick hwbrk probe hall ia ib ic vbus =>
    [.head (mkHead 2 (mkPorts hwbrk probe hall) 0), .sample (mkSample ia ib ic vbus)]
  | .reset => [.head (mkHead 3 0 0)]
  | .faultReset clr ign => [.head (mkHead 1 cmdAddr (ign ++ clr ++ (1 : BitVec 1)))]
  | .clearDirty ign => [.head (mkHead 1 cmdAddr (ign ++ (2 : BitVec 2)))]
  | .sample => [.uop 0x01]
  | .convert => [.uop 0x02]
  | .warmup => [.uop 0x03]
  | .clark3 => [.uop 0x04]
  | .clark2Xa => [.uop 0x05]
  | .clark2Xb => [.uop 0x06]
  | .clark2Xc => [.uop 0x07]
  | .park => [.uop 0x08]
  | .protect => [.uop 0x09]
  | .hall => [.uop 0x0A]
  | .flux => [.uop 0x0B]
  | .track => [.uop 0x0C]
  | .sincos => [.uop 0x0D]
  | .pi => [.uop 0x0E]
  | .invpark => [.uop 0x0F]
  | .invclark => [.uop 0x10]
  | .svpwm => [.uop 0x11]
  | .pwmout => [.uop 0x12]
  | .fsm => [.uop 0x13]
  | .measRl => [.uop 0x14]
  | .gaincalc => [.uop 0x15]
  | .hlAlign => [.uop 0x16]
  | .hlFwd => [.uop 0x17]
  | .hlRev => [.uop 0x18]
  | .hlFinish => [.uop 0x19]
  | .inject => [.uop 0x1A]
  | .brk => [.uop 0x1B]
  | .outoff => [.uop 0x1C]
  | .detect => [.uop 0x1D]
  | .clarksel => [.uop 0x1E]

/-! ## Words numbered as the opcode table numbers them -/

/-- The stream words of a table row's bits `w`: a row of fewer than 48 bits is a uop id (R143); a row of 48 bits or
more is a head in bits [47:0] and, for a TICK, its sample word in bits [111:48] (R131, R135). A number that no 6-bit
id holds gives no word. -/
def tableWords (nbits w : Nat) : List BusWord :=
  let v := w % 2 ^ nbits
  if nbits < 48 then
    if v < 64 then [.uop (BitVec.ofNat 6 v)] else []
  else
    let h := BitVec.ofNat 48 v
    .head h :: (if headOp h = 2 then [.sample (BitVec.ofNat 64 (v / 2 ^ 48))] else [])

/-- The instruction the decoder reads from a table row's bits. -/
def decodeTableWord (nbits w : Nat) : Option Instr :=
  match decode (tableWords nbits w) with
  | .ok (i, _) => some i
  | .error _ => none

end Sys2Proof
end

