-- ==== Sys2Proof/Config.lean ====
section
/-! DEFINITION. What is fixed for the block: the form of the parameter NUM of 00_scope.md R12 (its default is
Machine/F32.lean's `F32.binary32`; the three parameters together are Machine/Params.lean's `Params`), the fixed parameters
of R10, and the one source of free values. -/

namespace Sys2Proof

/-- NUM, the arithmetic on binary32 patterns, a parameter of the model (00_scope.md R12, R17 to R20). The first argument of
the four operations is the free value from which the sign and the payload of a NaN result are taken (R20; log entry 5).
What the operations do not cover, the constants and the order in which the rules combine the operations, is the rules'
(log entry 29). -/
structure Num where
  /-- `a + b` (R17). -/
  add : BitVec 23 → Word → Word → Word
  /-- `a - b` (R17). -/
  sub : BitVec 23 → Word → Word → Word
  /-- `a * b` (R17). -/
  mul : BitVec 23 → Word → Word → Word
  /-- `a / b` (R17). -/
  div : BitVec 23 → Word → Word → Word
  /-- `-a` (R17). -/
  neg : Word → Word
  /-- `f32(n)` of an unsigned integer (R17). -/
  ofNat : Nat → Word
  /-- `f32(n)` of a signed integer (R17). -/
  ofInt : Int → Word
  /-- `a < b` (R18). -/
  lt : Word → Word → Bool
  /-- `a <= b` (R18). -/
  le : Word → Word → Bool
  /-- The pattern is a NaN (R18, R19). -/
  isNaN : Word → Bool
  /-- The pattern is an infinity (R19). -/
  isInf : Word → Bool
  /-- `trunc(v)` of a finite pattern (R19). -/
  trunc : Word → Int

namespace Config

/-- FREE VALUES. `freeBits w draw site` is a value of `w` bits about which nothing is known. `draw` is the counter
`State.draws`, which every operation that may need a free value advances, and `site` tells apart the places of one
operation. Used for the sign and payload of a NaN result (93_implementation_defined.md section 2, treatment "any
value"; log entry 5), and for the ports and compare values a lone uop finds absent (log entry 7). -/
opaque freeBits (w draw site : Nat) : BitVec w

/-- WARMUP_N: the offset warm-up window, in samples (R10). -/
def warmupN : Nat := 1000

/-- VIOL_TRIP: the consecutive violating cycles that latch OverLimit (R10). -/
def violTrip : Nat := 3

/-- PROT_SCALE: binary32 0.9, the reference scale on a violation (R10). -/
def protScale : Word := 0x3F666666

/-- FLUX_BLANK: the zero-crossing blanking window, in cycles (R10). -/
def fluxBlank : Nat := 10

/-- FLUX_ANG_45 (R10). -/
def fluxAng45 : Half := 8192

/-- FLUX_ANG_225 (R10). -/
def fluxAng225 : Half := 40960

/-- TRK_TIMEOUT: the tracker re-synchronises when the elapsed count exceeds it (R10). -/
def trkTimeout : Nat := 3000

/-- COS_OFFSET: the cosine's index offset into the sine table (R10). -/
def cosOffset : Nat := 64

/-- SINTAB_N: the number of sine table entries (R10). -/
abbrev sintabN : Nat := 256

/-- The constant the ID register reads (10_state.md R33). -/
def idValue : Word := 0x4D455343

end Config

end Sys2Proof
end

