-- ==== Sys2Proof/Machine/F32.lean ====
section
/-! DEFINITION. NUM at its default, `F32.binary32` (00_scope.md R12, R17 to R20): IEEE 754 binary32 arithmetic, round
to nearest, ties to even, subnormals kept, on bit patterns. Operands are turned into exact numbers, the result is computed exactly and
rounded once.

PRESUMED (log entry 8): the zero-sign rules, the infinities and the invalid operations are those of IEEE 754-2008, which
R20 names and does not restate.

The argument `q` of an operation is the free value of a NaN result: its sign and its 22 payload bits below the quiet bit
(R20; 93_implementation_defined.md section 2; log entry 5). -/

namespace Sys2Proof.Machine.F32

/-- A bit pattern's sign bit (20_memory.md R104). -/
def sign (a : Word) : Bool := a.getLsbD 31

/-- A bit pattern's biased exponent, bits [30:23]. -/
def expo (a : Word) : Nat := a.toNat / 2 ^ 23 % 256

/-- A bit pattern's fraction, bits [22:0]. -/
def frac (a : Word) : Nat := a.toNat % 2 ^ 23

/-- The pattern is a NaN. -/
def isNaN (a : Word) : Bool := expo a == 255 && frac a != 0

/-- The pattern is an infinity. -/
def isInf (a : Word) : Bool := expo a == 255 && frac a == 0

/-- The pattern is a zero of either sign. -/
def isZero (a : Word) : Bool := expo a == 0 && frac a == 0

/-- The pattern is a finite number. -/
def isFinite (a : Word) : Bool := expo a != 255

/-- The integer significand of a finite pattern: its value is `± sig a * 2 ^ (exp2 a)`. -/
def sig (a : Word) : Nat := if expo a = 0 then frac a else frac a + 2 ^ 23

/-- The binary exponent that goes with `sig`. -/
def exp2 (a : Word) : Int := (max (expo a) 1 : Nat) - (150 : Int)

/-- The quiet NaN whose sign and payload are the free value `q` (R20). -/
def nan (q : BitVec 23) : Word := q.extractLsb' 22 1 ++ (0x1FF : BitVec 9) ++ q.extractLsb' 0 22

/-- The infinity of a sign. -/
def inf (s : Bool) : Word := if s then 0xFF800000 else 0x7F800000

/-- The zero of a sign. -/
def zero (s : Bool) : Word := if s then 0x80000000 else 0

/-- `n / 2 ^ k` rounded to the nearest integer, ties to even, for `k > 0`. -/
def shiftRne (n k : Nat) : Nat :=
  let d := n / 2 ^ k
  let r := n % 2 ^ k
  let half := 2 ^ (k - 1)
  if half < r ∨ (r = half ∧ d % 2 = 1) then d + 1 else d

/-- The exponent of the last place a result near `n * 2 ^ e` is rounded at: 24 significant bits, never below the
subnormals' `2 ^ (-149)`. -/
def ulpExp (n : Nat) (e : Int) : Int := max (e + (n.log2 + 1 : Nat) - 24) (-149)

/-- The magnitude bits of `n * 2 ^ e` rounded to nearest, ties to even; a rounding carry into the next binade and an
overflow past the largest finite number (to infinity's bits or beyond) fall out of the packing. -/
def roundMag (n : Nat) (e : Int) : Nat :=
  let q := ulpExp n e
  let m := if q ≤ e then n * 2 ^ (e - q).toNat else shiftRne n (q - e).toNat
  (q + 149).toNat * 2 ^ 23 + m

/-- The binary32 number nearest to `(-1) ^ s * n * 2 ^ e`, ties to even. -/
def round (s : Bool) (n : Nat) (e : Int) : Word :=
  if n = 0 then zero s
  else
    let b := roundMag n e
    if 0x7F800000 ≤ b then inf s else BitVec.ofNat 32 ((if s then 2 ^ 31 else 0) + b)

/-- The exact signed significand of a finite pattern. -/
def signedSig (a : Word) : Int := if sign a then -(sig a : Int) else sig a

/-- `-a` flips the sign bit (R17). -/
def neg (a : Word) : Word := a ^^^ 0x80000000

/-- `a + b` (R17). -/
def add (q : BitVec 23) (a b : Word) : Word :=
  if isNaN a || isNaN b then nan q
  else if isInf a then if isInf b && sign a != sign b then nan q else a
  else if isInf b then b
  else
    let e := min (exp2 a) (exp2 b)
    let t := signedSig a * 2 ^ (exp2 a - e).toNat + signedSig b * 2 ^ (exp2 b - e).toNat
    if t = 0 then zero (sign a && sign b) else round (t < 0) t.natAbs e

/-- `a - b` (R17). -/
def sub (q : BitVec 23) (a b : Word) : Word := add q a (neg b)

/-- `a * b` (R17). -/
def mul (q : BitVec 23) (a b : Word) : Word :=
  let s := sign a != sign b
  if isNaN a || isNaN b then nan q
  else if isInf a || isInf b then if isZero a || isZero b then nan q else inf s
  else round s (sig a * sig b) (exp2 a + exp2 b)

/-- `a / b` (R17). The quotient is computed to at least 26 significant bits and a sticky bit, so the one rounding of
`round` is that of the exact quotient. -/
def div (q : BitVec 23) (a b : Word) : Word :=
  let s := sign a != sign b
  if isNaN a || isNaN b then nan q
  else if isInf a then if isInf b then nan q else inf s
  else if isInf b then zero s
  else if isZero b then if isZero a then nan q else inf s
  else
    let n := sig a * 2 ^ 50
    let sticky := if n % sig b = 0 then 0 else 1
    round s (2 * (n / sig b) + sticky) (exp2 a - exp2 b - 51)

/-- `f32(n)`: an integer rounded to binary32 (R17). -/
def ofInt (n : Int) : Word := round (n < 0) n.natAbs 0

/-- `f32(n)` of a natural number. -/
def ofNat (n : Nat) : Word := round false n 0

/-- An integer that orders the patterns that are no NaN as their values, both zeros at 0. -/
def orderKey (a : Word) : Int :=
  if sign a then -((a.toNat % 2 ^ 31 : Nat) : Int) else (a.toNat % 2 ^ 31 : Nat)

/-- `a < b`: false when either is a NaN, `-0 == +0` (R18). -/
def lt (a b : Word) : Bool := !isNaN a && !isNaN b && decide (orderKey a < orderKey b)

/-- `a <= b` (R18). -/
def le (a b : Word) : Bool := !isNaN a && !isNaN b && decide (orderKey a ≤ orderKey b)

/-- `trunc(v)` of a finite pattern: the nearest integer in the direction of zero (R19). -/
def trunc (a : Word) : Int :=
  let m := if 0 ≤ exp2 a then sig a * 2 ^ (exp2 a).toNat else sig a / 2 ^ (-exp2 a).toNat
  if sign a then -(m : Int) else m

/-- NUM at its default (R12, R20). -/
abbrev binary32 : Num where
  add := add
  sub := sub
  mul := mul
  div := div
  neg := neg
  ofNat := ofNat
  ofInt := ofInt
  lt := lt
  le := le
  isNaN := isNaN
  isInf := isInf
  trunc := trunc

/-! ## What the rules build from NUM's operations -/

/-- `a > b` (R18). -/
def gt (a b : Word) (N : Num := binary32) : Bool := N.lt b a

/-- `a >= b` (R18). -/
def ge (a b : Word) (N : Num := binary32) : Bool := N.le b a

/-- `clampf(v, lo, hi)` (R18): a NaN `v` is returned unchanged, and `hi` is tried first. -/
def clampf (v lo hi : Word) (N : Num := binary32) : Word := if gt v hi N then hi else if N.lt v lo then lo else v

/-- `maxf3(a, b, c)` (R18). -/
def maxf3 (a b c : Word) (N : Num := binary32) : Word :=
  let m := if gt b a N then b else a
  if gt c m N then c else m

/-- `minf3(a, b, c)` (R18). -/
def minf3 (a b c : Word) (N : Num := binary32) : Word :=
  let m := if N.lt b a then b else a
  if N.lt c m then c else m

/-! ## Constants, with the hex patterns the rules give -/

/-- 0.5f (40_signal_pipeline.md R160). -/
def half : Word := 0x3F000000

/-- -0.5f (43_controller.md R263). -/
def negHalf : Word := 0xBF000000

/-- 1.0f (10_state.md R58). -/
def one : Word := 0x3F800000

/-- 2.0f (40_signal_pipeline.md R160). -/
def two : Word := 0x40000000

/-- C23 = 2/3 (40_signal_pipeline.md R160). -/
def c23 : Word := 0x3F2AAAAB

/-- C1S3 = 1/sqrt 3 (40_signal_pipeline.md R160). -/
def c1s3 : Word := 0x3F13CD3A

/-- S32 = sqrt(3)/2 (43_controller.md R263). -/
def s32 : Word := 0x3F5DB3D7

end Sys2Proof.Machine.F32
end

