-- ==== Sys2Proof/Machine/State.lean ====
section
/-! DEFINITION. The state of the block as plain data (spec 10_state.md; 70_reset_and_hazards.md R450): every register of
the map R31 by its fields, the cycle-local values, and the run's transactions and responses. -/

namespace Sys2Proof.Machine

/-! ## Banks of like registers -/

/-- One value for each raw sample channel: IA, IB, IC, VBUS (10_state.md R46). -/
structure Chan (α : Type) where
  ia : α
  ib : α
  ic : α
  vbus : α
  deriving DecidableEq, Repr

/-- The value of channel `ch`. -/
def Chan.get {α : Type} (x : Chan α) : Fin 4 → α
  | 0 => x.ia
  | 1 => x.ib
  | 2 => x.ic
  | 3 => x.vbus

/-- The bank whose channel `ch` is `f ch`. -/
def Chan.ofFn {α : Type} (f : Fin 4 → α) : Chan α := ⟨f 0, f 1, f 2, f 3⟩

/-- One value for each phase a, b, c. -/
structure Phase (α : Type) where
  a : α
  b : α
  c : α
  deriving DecidableEq, Repr

/-- The value of phase `k`. -/
def Phase.get {α : Type} (x : Phase α) : Fin 3 → α
  | 0 => x.a
  | 1 => x.b
  | 2 => x.c

/-- The bank whose phase `k` is `f k`. -/
def Phase.ofFn {α : Type} (f : Fin 3 → α) : Phase α := ⟨f 0, f 1, f 2⟩

/-- One value for each Hall sector 1 to 6; index `k` is sector `k + 1` (10_state.md R76, R83). -/
structure Sector (α : Type) where
  s1 : α
  s2 : α
  s3 : α
  s4 : α
  s5 : α
  s6 : α
  deriving DecidableEq, Repr

/-- The value of sector `k + 1`. -/
def Sector.get {α : Type} (x : Sector α) : Fin 6 → α
  | 0 => x.s1
  | 1 => x.s2
  | 2 => x.s3
  | 3 => x.s4
  | 4 => x.s5
  | 5 => x.s6

/-- The bank whose sector `k + 1` is `f k`. -/
def Sector.ofFn {α : Type} (f : Fin 6 → α) : Sector α := ⟨f 0, f 1, f 2, f 3, f 4, f 5⟩

/-! ## Status and fault fields -/

/-- The OperatingState, one constructor per OPSTATE code 0 to 15 in the order of 10_state.md R36. -/
inductive OpState where
  | idle | detecting | measuring | hallRun | sensorlessRun
  | hallNearStationary | openLoopStartup | openLoopTransition | align | test
  | error | recovering
  | reserved12 | reserved13 | reserved14 | reserved15
  deriving DecidableEq, Repr

/-- The sub-phase of Measuring, one constructor per SUBPHASE code 0 to 7 (10_state.md R37). -/
inductive SubPhase where
  | rlP1 | rlP2 | rlL | hlAlign | hlFwd | hlRev | reserved6 | reserved7
  deriving DecidableEq, Repr

/-- CLARK_VAR codes 0 to 3 (10_state.md R37). -/
inductive ClarkVar where
  | threePhase | excludeA | excludeB | excludeC
  deriving DecidableEq, Repr

/-- The source of a tracker event (10_state.md R37, LAST_SRC; 42_estimator.md R219). -/
inductive EvtSrc where
  | hall | flux
  deriving DecidableEq, Repr

/-- FAULT.CODE 0 to 4; codes 5 to 7 are never produced (10_state.md R38, 60_exceptions.md R401). -/
inductive FaultCode where
  | none | overLimit | invalidHallState0 | invalidHallState7 | genericHallFault
  deriving DecidableEq, Repr

/-- STATUS by its fields (10_state.md R36, R37). -/
structure Status where
  opstate : OpState
  subphase : SubPhase
  faultLatched : Bool
  swBrk : Bool
  hwBrk : Bool
  warmupDone : Bool
  htValid : Bool
  dirty : Bool
  clarkVar : ClarkVar
  evtSeen : Bool
  lastSrc : EvtSrc
  dir : Bool
  fluxSign : Bool
  deriving DecidableEq, Repr

/-! ## The register groups, in the order of the map R31 -/

/-- Control, status, fault, PWM and conversion setup (10_state.md R34 to R45). -/
structure Ctl where
  run : Bool
  paramsValid : Bool
  status : Status
  code : FaultCode
  violCnt : Byte
  fraw : Chan Half
  piDiv : Byte
  pwmFull : Half
  clarkSat : Half
  tPwm : Word
  vabToPwm : Word
  hallRaw : BitVec 3
  lastHall : BitVec 3
  probe : BitVec 4
  deriving DecidableEq, Repr

/-- Signal pipeline registers (10_state.md R46 to R52). -/
structure Pipe where
  raw : Chan Half
  gain : Chan Word
  offset : Chan Word
  limHi : Chan Half
  limLo : Chan Half
  phys : Chan Word
  warmupCnt : Half
  wsum : Phase Word
  deriving DecidableEq, Repr

/-- FOCFrame, phase voltages, compare values and enables (10_state.md R53 to R65). -/
structure Foc where
  iAlpha : Word
  iBeta : Word
  iD : Word
  iQ : Word
  idReq : Word
  iqReq : Word
  vd : Word
  vq : Word
  vAlpha : Word
  vBeta : Word
  sin : Word
  cos : Word
  kpD : Word
  kpQ : Word
  kiD : Word
  kiQ : Word
  vdMax : Word
  vqMax : Word
  intD : Word
  intQ : Word
  piCnt : Byte
  vph : Phase Word
  ccr : Phase Half
  phaseEn : Phase Bool
  deriving DecidableEq, Repr

/-- Tracker and flux observer (10_state.md R66 to R73). -/
structure Est where
  theta : Half
  trkStep : Word
  trkInvper : Word
  trkCnt : Word
  trkErr : Word
  lastEvt : Half
  trkAlpha : Word
  trkKerr : Word
  trkRestart : Word
  lastHallCenter : Half
  fluxA : Word
  fluxB : Word
  fluxBlk : Byte
  deriving DecidableEq, Repr

/-- One sector's entry of the Hall table (10_state.md R76). -/
structure HallEntry where
  start : Half
  stop : Half
  center : Half
  width : Half
  deriving DecidableEq, Repr

/-- Motor parameters and Hall table (10_state.md R74 to R76). -/
structure Mot where
  rPhase : Word
  lPhase : Word
  fluxLink : Word
  iMax : Word
  ht : Sector HallEntry
  deriving DecidableEq, Repr

/-- One sector's Hall-learning accumulators (10_state.md R83). -/
structure HlAcc where
  cnt : Word
  sum : Word
  ref : Half
  deriving DecidableEq, Repr

/-- Self-commissioning registers (10_state.md R77 to R83). -/
structure Com where
  measCnt : Word
  measDuty : Half
  measI1 : Word
  measI2 : Word
  measIh : Word
  measIl : Word
  d1 : Half
  d2 : Half
  iTgt1 : Word
  iTgt2 : Word
  iBand : Word
  measK : Word
  measT1 : Word
  measT2 : Word
  measT3 : Word
  lFloor : Word
  vInj : Word
  alignT : Word
  sweepStep : Half
  ctrlBw : Word
  hl : Sector HlAcc
  deriving DecidableEq, Repr

/-! ## Cycle-local values -/

/-- The input ports of one tick (10_state.md R84). -/
structure Ports where
  raw : Chan Half
  hall : BitVec 3
  probe : BitVec 4
  hwbrk : BitVec 1
  deriving DecidableEq, Repr

/-- A tracker event (42_estimator.md R219): an angle, a direction (true forward) and a source. -/
structure Evt where
  ang : Half
  fwd : Bool
  src : EvtSrc
  deriving DecidableEq, Repr

/-- What exists only inside one cycle: the port values SAMPLE latches (46_host_interface.md R372), the events of HALL
and FLUX (42_estimator.md R219) and `ccr_next` (43_controller.md R264). Between transactions all four are absent
(70_reset_and_hazards.md R450); log entry 4. -/
structure Cyc where
  ports : Option Ports
  hallEvt : Option Evt
  fluxEvt : Option Evt
  ccrNext : Option (Phase Half)
  deriving DecidableEq, Repr

/-- No cycle-local value. -/
def Cyc.empty : Cyc := ⟨none, none, none, none⟩

/-! ## The host's side -/

/-- The response that ends a transaction (46_host_interface.md R370 to R372, R375); RESET has none (log entry 14). -/
inductive Response where
  /-- RD: the register's value. -/
  | data (v : Word)
  /-- WR: done. -/
  | ok
  /-- RD or WR: an error response carrying the address. -/
  | busError (addr : BitVec 12)
  /-- TICK: the output ports after the cycle. -/
  | outputs (ccr : Phase Half) (en : Phase Bool) (swbrk : Bool)
  deriving DecidableEq, Repr

/-! ## The state -/

/-- The whole state. `resetSeen` is 46_host_interface.md R373's; `stream` holds the run's transactions still to come and
`responses` those given so far, oldest first (70_reset_and_hazards.md R467; log entries 1 and 14); `draws` is the
model's own counter of free values (log entry 6). -/
structure State where
  resetSeen : Bool
  ctl : Ctl
  pipe : Pipe
  foc : Foc
  est : Est
  mot : Mot
  com : Com
  cyc : Cyc
  draws : Nat
  stream : List BusWord
  responses : List Response
  deriving DecidableEq, Repr

/-- Why the machine would stop with a fault. It has NO constructor: the block's faults are latched state and its bus
errors are responses, and after either the run goes on (60_exceptions.md R400; log entry 13). -/
inductive Fault where
  deriving DecidableEq, Repr

/-- Why the model gives a situation no meaning (00_scope.md R22, 60_exceptions.md R406). Each is safe: no claim about a
run that reaches it can be proved. -/
inductive Refusal where
  /-- Raised by `exec` for an instruction that has no meaning yet; safe. -/
  | notModelled (mnemonic : String)
  /-- Raised by RD, WR, TICK, FAULT_RESET and CLEAR_DIRTY before the first RESET (70_reset_and_hazards.md R451); safe. -/
  | beforeReset
  /-- Raised by the fetch for a head with a reserved bit set (30_encoding.md R140); safe. -/
  | illegalHead
  /-- Raised by the fetch for a reserved uop id (30_encoding.md R144); safe. -/
  | reservedUop
  /-- Raised by the fetch for a TICK head with no sample word after it, which is no whole transaction (30_encoding.md
  R131, R137; log entry 2); safe. -/
  | missingSample
  /-- Raised by the fetch for a sample word where a head is due (30_encoding.md R137; log entry 2); safe. -/
  | straySample
  /-- Raised by TICK in a placeholder or reserved state (44_state_machine.md R301); safe. -/
  | placeholderState
  deriving DecidableEq, Repr

/-- STATUS after RESET: 0x00200000 (R450). -/
def Status.reset : Status where
  opstate := .idle
  subphase := .rlP1
  faultLatched := false
  swBrk := false
  hwBrk := false
  warmupDone := false
  htValid := false
  dirty := false
  clarkVar := .threePhase
  evtSeen := false
  lastSrc := .hall
  dir := false
  fluxSign := true

/-- A bank of four equal channels. -/
def Chan.all {α : Type} (x : α) : Chan α := ⟨x, x, x, x⟩

/-- A bank of three equal phases. -/
def Phase.all {α : Type} (x : α) : Phase α := ⟨x, x, x⟩

/-- A bank of six equal sectors. -/
def Sector.all {α : Type} (x : α) : Sector α := ⟨x, x, x, x, x, x⟩

/-- Control group after RESET (R31, R450). -/
def Ctl.reset : Ctl where
  run := false
  paramsValid := false
  status := Status.reset
  code := .none
  violCnt := 0
  fraw := Chan.all 0
  piDiv := 1
  pwmFull := 0
  clarkSat := 0xFFFF
  tPwm := 0
  vabToPwm := 0
  hallRaw := 0
  lastHall := 0
  probe := 0

/-- Pipeline group after RESET (R31, R450). -/
def Pipe.reset : Pipe where
  raw := Chan.all 0
  gain := Chan.all 0
  offset := Chan.all 0
  limHi := Chan.all 0xFFFF
  limLo := Chan.all 0
  phys := Chan.all 0
  warmupCnt := 0
  wsum := Phase.all 0

/-- FOCFrame group after RESET (R31, R450): COS = 1.0, everything else 0. -/
def Foc.reset : Foc where
  iAlpha := 0
  iBeta := 0
  iD := 0
  iQ := 0
  idReq := 0
  iqReq := 0
  vd := 0
  vq := 0
  vAlpha := 0
  vBeta := 0
  sin := 0
  cos := 0x3F800000
  kpD := 0
  kpQ := 0
  kiD := 0
  kiQ := 0
  vdMax := 0
  vqMax := 0
  intD := 0
  intQ := 0
  piCnt := 0
  vph := Phase.all 0
  ccr := Phase.all 0
  phaseEn := Phase.all false

/-- Estimator group after RESET (R31, R450). -/
def Est.reset : Est where
  theta := 0
  trkStep := 0
  trkInvper := 0
  trkCnt := 0
  trkErr := 0
  lastEvt := 0
  trkAlpha := 0x3E4CCCCD
  trkKerr := 0x3E000000
  trkRestart := 0x000005DC
  lastHallCenter := 0
  fluxA := 0
  fluxB := 0
  fluxBlk := 0xFF

/-- Motor group after RESET (R31, R450). -/
def Mot.reset : Mot where
  rPhase := 0
  lPhase := 0
  fluxLink := 0
  iMax := 0
  ht := Sector.all ⟨0, 0, 0, 0⟩

/-- Commissioning group after RESET (R31, R450). -/
def Com.reset : Com where
  measCnt := 0
  measDuty := 0
  measI1 := 0
  measI2 := 0
  measIh := 0
  measIl := 0
  d1 := 0
  d2 := 0
  iTgt1 := 0x40800000
  iTgt2 := 0x41400000
  iBand := 0x3F000000
  measK := 0x3A83126F
  measT1 := 0x00001388
  measT2 := 0x00002710
  measT3 := 0x0000FDE8
  lFloor := 0x358637BD
  vInj := 0
  alignT := 0x00002710
  sweepStep := 0x0001
  ctrlBw := 0x447A0000
  hl := Sector.all ⟨0, 0, 0⟩

/-- The machine right after RESET (70_reset_and_hazards.md R450), with no transaction presented and no response given.
DESIGN CHOICE (log entries 1, 6 and 14): the empty stream, the empty responses and draws = 0 are the model's. -/
def State.reset : State where
  resetSeen := true
  ctl := Ctl.reset
  pipe := Pipe.reset
  foc := Foc.reset
  est := Est.reset
  mot := Mot.reset
  com := Com.reset
  cyc := Cyc.empty
  draws := 0
  stream := []
  responses := []

/-- The block before its first RESET: the spec gives its registers no value (70_reset_and_hazards.md R451), so all that
is said of it is that no RESET has been seen (log entry 11). -/
def State.beforeReset (s : State) : State := { s with resetSeen := false }

end Sys2Proof.Machine
end

