-- ==== Sys2Proof/Machine/Operands.lean ====
section
/-! DEFINITION. The operand primitives of 00_scope.md R15, R16 and R19, and the free values an operation may take. -/

namespace Sys2Proof.Machine

/-- `fwd(d)`: a difference below half a revolution is forward; exactly half is backward (R16). -/
def fwd (d : Half) : Bool := decide (d.toNat < 32768)

/-- `s16(v)`: a u16 read as a two's-complement integer (R15). -/
def s16 (v : Half) : Int := if v.toNat < 32768 then v.toNat else v.toNat - 65536

/-- `wrap16(n)`: an integer modulo 65536 (R15). -/
def wrap16 (n : Int) : Half := BitVec.ofInt 16 n

/-- `sat_inc_N(v)` (R15). -/
def satInc {w : Nat} (v : BitVec w) : BitVec w := if v.toNat < 2 ^ w - 1 then v + 1 else v

/-- `max(1, v)` of an unsigned field (43_controller.md R260, 45_commissioning.md R342). -/
def atLeastOne {w : Nat} (v : BitVec w) : Nat := max 1 v.toNat

/-- `ToDuty(v, full)` (R19): a compare value in 0..full. -/
def toDuty (v : Word) (full : Half) (N : Num := F32.binary32) : Half :=
  if N.isNaN v then 0
  else if N.le v (F32.zero false) then 0
  else if F32.ge v (N.ofNat full.toNat) N then full
  else BitVec.ofInt 16 (N.trunc v)

/-- `ToAngleStep(v)` (R19): 0 for a NaN or an infinity, else the truncated value modulo 65536. -/
def toAngleStep (v : Word) (N : Num := F32.binary32) : Half :=
  if N.isNaN v || N.isInf v then 0 else wrap16 (N.trunc v)

/-- The sector a Hall state names, as an index 0..5: Hall states 1 to 6 name sectors 1 to 6, and 0 and 7 name none
(10_state.md R76, 42_estimator.md R220). -/
def hallSector (h : BitVec 3) : Option (Fin 6) :=
  match h.toNat with
  | 1 => some 0
  | 2 => some 1
  | 3 => some 2
  | 4 => some 3
  | 5 => some 4
  | 6 => some 5
  | _ => none

/-- The free sign and payload of the NaN that operation `site` of the running uop may produce (log entry 5). -/
def State.nan (s : State) (site : Nat) : BitVec 23 := Config.freeBits 23 s.draws site

/-- The port values SAMPLE latches. A cycle always has them (46_host_interface.md R372); for a lone SAMPLE outside a
cycle no rule gives them and they are free values (log entry 7). -/
def State.portsIn (s : State) : Ports :=
  match s.cyc.ports with
  | some p => p
  | none =>
    { raw := Chan.ofFn fun ch => Config.freeBits 16 s.draws ch
      hall := Config.freeBits 3 s.draws 4
      probe := Config.freeBits 4 s.draws 5
      hwbrk := Config.freeBits 1 s.draws 6 }

/-- The compare values PWMOUT drives: those of SVPWM in this cycle (43_controller.md R265). For a lone PWMOUT with no
SVPWM before it no rule gives them and they are free values (log entry 7). -/
def State.ccrNextIn (s : State) : Phase Half :=
  match s.cyc.ccrNext with
  | some c => c
  | none => Phase.ofFn fun k => Config.freeBits 16 s.draws k

/-- The event TRACK consumes: a Hall event before a flux event (42_estimator.md R224). -/
def State.eventIn (s : State) : Option Evt :=
  match s.cyc.hallEvt with
  | some e => some e
  | none => s.cyc.fluxEvt

end Sys2Proof.Machine
end

