-- ==== Sys2Proof/Machine/Flags.lean ====
section
/-! DEFINITION. The status and fault words (10_state.md R36 to R38) and the conditions the uops compute flags and events
from. -/

namespace Sys2Proof.Machine

/-- OPSTATE [3:0] (10_state.md R36). -/
def OpState.bits : OpState → BitVec 4
  | .idle => 0
  | .detecting => 1
  | .measuring => 2
  | .hallRun => 3
  | .sensorlessRun => 4
  | .hallNearStationary => 5
  | .openLoopStartup => 6
  | .openLoopTransition => 7
  | .align => 8
  | .test => 9
  | .error => 10
  | .recovering => 11
  | .reserved12 => 12
  | .reserved13 => 13
  | .reserved14 => 14
  | .reserved15 => 15

/-- SUBPHASE [6:4] (10_state.md R37). -/
def SubPhase.bits : SubPhase → BitVec 3
  | .rlP1 => 0
  | .rlP2 => 1
  | .rlL => 2
  | .hlAlign => 3
  | .hlFwd => 4
  | .hlRev => 5
  | .reserved6 => 6
  | .reserved7 => 7

/-- CLARK_VAR [17:16] (10_state.md R37). -/
def ClarkVar.bits : ClarkVar → BitVec 2
  | .threePhase => 0
  | .excludeA => 1
  | .excludeB => 2
  | .excludeC => 3

/-- LAST_SRC [19] (10_state.md R37). -/
def EvtSrc.bits : EvtSrc → BitVec 1
  | .hall => 0
  | .flux => 1

/-- CODE [2:0] (10_state.md R38). -/
def FaultCode.bits : FaultCode → BitVec 3
  | .none => 0
  | .overLimit => 1
  | .invalidHallState0 => 2
  | .invalidHallState7 => 3
  | .genericHallFault => 4

/-- STATUS as the host reads it (10_state.md R31, R36, R37). -/
def Status.toWord (t : Status) : Word :=
  (0 : BitVec 10) ++ BitVec.ofBool t.fluxSign ++ BitVec.ofBool t.dir ++ t.lastSrc.bits ++ BitVec.ofBool t.evtSeen ++
    t.clarkVar.bits ++ (0 : BitVec 2) ++ BitVec.ofBool t.dirty ++ BitVec.ofBool t.htValid ++
    BitVec.ofBool t.warmupDone ++ BitVec.ofBool t.hwBrk ++ BitVec.ofBool t.swBrk ++ BitVec.ofBool t.faultLatched ++
    (0 : BitVec 1) ++ t.subphase.bits ++ t.opstate.bits

/-- FAULT as the host reads it (10_state.md R31, R38). -/
def faultWord (code : FaultCode) (violCnt : Byte) : Word :=
  (0 : BitVec 16) ++ violCnt ++ (0 : BitVec 5) ++ code.bits

/-- A raw sample violates its limits: unsigned and strict (41_protection.md R201). -/
def outOfLimits (raw hi lo : Half) : Bool := decide (hi.toNat < raw.toNat) || decide (raw.toNat < lo.toNat)

/-- Some channel violates its limits (41_protection.md R201). -/
def State.violation (s : State) : Bool :=
  let bad (ch : Fin 4) := outOfLimits (s.pipe.raw.get ch) (s.pipe.limHi.get ch) (s.pipe.limLo.get ch)
  bad 0 || bad 1 || bad 2 || bad 3

/-- The flux comparator `(FLUX_B - FLUX_A) >= 0`, false for a NaN (42_estimator.md R222). -/
def fluxSignOf (q : BitVec 23) (fluxA fluxB : Word) (N : Num := F32.binary32) : Bool :=
  F32.ge (N.sub q fluxB fluxA) (F32.zero false) N

/-- The phase with the largest compare value, the lower index on a tie (40_signal_pipeline.md R164). -/
def largestPhase (ccr : Phase Half) : Fin 3 :=
  let m : Fin 3 := if ccr.a.toNat < ccr.b.toNat then 1 else 0
  if (ccr.get m).toNat < ccr.c.toNat then 2 else m

/-- The Clark variant that excludes a phase (40_signal_pipeline.md R164). -/
def excluding : Fin 3 → ClarkVar
  | 0 => .excludeA
  | 1 => .excludeB
  | 2 => .excludeC

/-- CLARKSEL's choice (40_signal_pipeline.md R164). -/
def clarkChoice (ccr : Phase Half) (sat : Half) : ClarkVar :=
  let m := largestPhase ccr
  if sat.toNat < (ccr.get m).toNat then excluding m else .threePhase

end Sys2Proof.Machine
end

