-- ==== Sys2Proof/Machine/Regs.lean ====
section
/-! DEFINITION. The register map (10_state.md R31): every register by name, its address, its access type, its defined
bits, how it is read and how a host write changes it (20_memory.md R102 to R108). -/

namespace Sys2Proof.Machine

/-! ## Group updates -/

/-- Change the ctl group. -/
def State.onCtl (s : State) (f : Ctl → Ctl) : State := { s with ctl := f s.ctl }

/-- Change the pipe group. -/
def State.onPipe (s : State) (f : Pipe → Pipe) : State := { s with pipe := f s.pipe }

/-- Change the foc group. -/
def State.onFoc (s : State) (f : Foc → Foc) : State := { s with foc := f s.foc }

/-- Change the est group. -/
def State.onEst (s : State) (f : Est → Est) : State := { s with est := f s.est }

/-- Change the mot group. -/
def State.onMot (s : State) (f : Mot → Mot) : State := { s with mot := f s.mot }

/-- Change the com group. -/
def State.onCom (s : State) (f : Com → Com) : State := { s with com := f s.com }

/-- Change the cyc group. -/
def State.onCyc (s : State) (f : Cyc → Cyc) : State := { s with cyc := f s.cyc }

/-- Advance the counter of free values (log entry 6). -/
def State.drawn (s : State) : State := { s with draws := s.draws + 1 }

/-- Give the host a response. -/
def State.respond (s : State) (r : Response) : State := { s with responses := s.responses ++ [r] }

/-- Replace one channel of a bank. -/
def Chan.set {α : Type} (x : Chan α) (k : Fin 4) (v : α) : Chan α := Chan.ofFn fun j => if j = k then v else x.get j

/-- Replace one sector of a bank. -/
def Sector.set {α : Type} (x : Sector α) (k : Fin 6) (v : α) : Sector α :=
  Sector.ofFn fun j => if j = k then v else x.get j

/-! ## The map -/

/-- The registers of the map R31. An index counts from 0; for a Hall sector s the index is s - 1. -/
inductive Reg where
  /-- 0x000 (R33). -/
  | id
  /-- 0x004 (R34). -/
  | ctrl
  /-- 0x008 (R35). -/
  | cmd
  /-- 0x00C (R36, R37). -/
  | status
  /-- 0x010 (R38). -/
  | fault
  /-- 0x014 + 4k (R39). -/
  | fraw (k : Fin 4)
  /-- 0x024 (R40). -/
  | cfg
  /-- 0x028 (R41). -/
  | pwmFull
  /-- 0x02C (R42). -/
  | clarkSat
  /-- 0x030 (R43). -/
  | tPwm
  /-- 0x034 (R44). -/
  | vabToPwm
  /-- 0x038 (R45). -/
  | hallio
  /-- 0x040 + 4k (R46). -/
  | raw (k : Fin 4)
  /-- 0x050 + 4k (R47). -/
  | gain (k : Fin 4)
  /-- 0x060 + 4k (R48). -/
  | offset (k : Fin 4)
  /-- 0x070 + 4k (R49). -/
  | limHi (k : Fin 4)
  /-- 0x080 + 4k (R50). -/
  | limLo (k : Fin 4)
  /-- 0x090 + 4k (R51). -/
  | phys (k : Fin 4)
  /-- 0x0A0 (R52). -/
  | warmupCnt
  /-- 0x0A4 + 4k (R52). -/
  | wsum (k : Fin 3)
  /-- 0x0B0 (R53). -/
  | iAlpha
  /-- 0x0B4 (R53). -/
  | iBeta
  /-- 0x0B8 (R54). -/
  | iD
  /-- 0x0BC (R54). -/
  | iQ
  /-- 0x0C0 (R55). -/
  | idReq
  /-- 0x0C4 (R55). -/
  | iqReq
  /-- 0x0C8 (R56). -/
  | vd
  /-- 0x0CC (R56). -/
  | vq
  /-- 0x0D0 (R57). -/
  | vAlpha
  /-- 0x0D4 (R57). -/
  | vBeta
  /-- 0x0D8 (R58). -/
  | sin
  /-- 0x0DC (R58). -/
  | cos
  /-- 0x0E0 (R59). -/
  | kpD
  /-- 0x0E4 (R59). -/
  | kpQ
  /-- 0x0E8 (R59). -/
  | kiD
  /-- 0x0EC (R59). -/
  | kiQ
  /-- 0x0F0 (R60). -/
  | vdMax
  /-- 0x0F4 (R60). -/
  | vqMax
  /-- 0x0F8 (R61). -/
  | intD
  /-- 0x0FC (R61). -/
  | intQ
  /-- 0x100 (R62). -/
  | piCnt
  /-- 0x104 + 4k (R63). -/
  | vph (k : Fin 3)
  /-- 0x110 + 4k (R64). -/
  | ccr (k : Fin 3)
  /-- 0x11C (R65). -/
  | phaseEn
  /-- 0x120 (R66). -/
  | theta
  /-- 0x124 (R67). -/
  | trkStep
  /-- 0x128 (R67). -/
  | trkInvper
  /-- 0x12C (R68). -/
  | trkCnt
  /-- 0x130 (R69). -/
  | trkErr
  /-- 0x134 (R70). -/
  | lastEvt
  /-- 0x138 (R71). -/
  | trkAlpha
  /-- 0x13C (R71). -/
  | trkKerr
  /-- 0x140 (R71). -/
  | trkRestart
  /-- 0x144 (R72). -/
  | lastHallCenter
  /-- 0x150 (R73). -/
  | fluxA
  /-- 0x154 (R73). -/
  | fluxB
  /-- 0x158 (R73). -/
  | fluxBlk
  /-- 0x160 (R74). -/
  | rPhase
  /-- 0x164 (R74). -/
  | lPhase
  /-- 0x168 (R74). -/
  | fluxLink
  /-- 0x16C (R75). -/
  | iMax
  /-- 0x180 + 8k (R76). -/
  | htSe (k : Fin 6)
  /-- 0x184 + 8k (R76). -/
  | htCw (k : Fin 6)
  /-- 0x1C0 (R77). -/
  | measCnt
  /-- 0x1C4 (R77). -/
  | measDuty
  /-- 0x1C8 (R78). -/
  | measI1
  /-- 0x1CC (R78). -/
  | measI2
  /-- 0x1D0 (R78). -/
  | measIh
  /-- 0x1D4 (R78). -/
  | measIl
  /-- 0x1D8 (R78). -/
  | measD12
  /-- 0x1E0 (R79). -/
  | iTgt1
  /-- 0x1E4 (R79). -/
  | iTgt2
  /-- 0x1E8 (R79). -/
  | iBand
  /-- 0x1EC (R79). -/
  | measK
  /-- 0x1F0 (R80). -/
  | measT1
  /-- 0x1F4 (R80). -/
  | measT2
  /-- 0x1F8 (R80). -/
  | measT3
  /-- 0x1FC (R81). -/
  | lFloor
  /-- 0x200 (R82). -/
  | vInj
  /-- 0x204 (R82). -/
  | alignT
  /-- 0x208 (R82). -/
  | sweepStep
  /-- 0x20C (R82). -/
  | ctrlBw
  /-- 0x220 + 4k (R83). -/
  | hlCnt (k : Fin 6)
  /-- 0x240 + 4k (R83). -/
  | hlSum (k : Fin 6)
  /-- 0x260 + 4k (R83). -/
  | hlRef (k : Fin 6)
  /-- 0x400 + 4k (R90). -/
  | sintab (k : Fin 256)
  deriving DecidableEq, Repr

/-- Access types (10_state.md R31). -/
inductive Access where
  | rw | ro | wo
  deriving DecidableEq, Repr

/-- One row of the map: the first offset, the number of registers, their distance, and their names. -/
structure RegRow where
  base : Nat
  count : Nat
  stride : Nat
  name : Nat → Reg

/-- Rows 0x000 to 0x03F (20_memory.md R101). -/
def mapControl : List RegRow :=
  [⟨0x000, 1, 4, fun _ => .id⟩,
   ⟨0x004, 1, 4, fun _ => .ctrl⟩,
   ⟨0x008, 1, 4, fun _ => .cmd⟩,
   ⟨0x00C, 1, 4, fun _ => .status⟩,
   ⟨0x010, 1, 4, fun _ => .fault⟩,
   ⟨0x014, 4, 4, fun k => .fraw (Fin.ofNat 4 k)⟩] ++
  [⟨0x024, 1, 4, fun _ => .cfg⟩,
   ⟨0x028, 1, 4, fun _ => .pwmFull⟩,
   ⟨0x02C, 1, 4, fun _ => .clarkSat⟩,
   ⟨0x030, 1, 4, fun _ => .tPwm⟩,
   ⟨0x034, 1, 4, fun _ => .vabToPwm⟩,
   ⟨0x038, 1, 4, fun _ => .hallio⟩]

/-- Rows 0x040 to 0x0AF. -/
def mapPipeline : List RegRow :=
  [⟨0x040, 4, 4, fun k => .raw (Fin.ofNat 4 k)⟩,
   ⟨0x050, 4, 4, fun k => .gain (Fin.ofNat 4 k)⟩,
   ⟨0x060, 4, 4, fun k => .offset (Fin.ofNat 4 k)⟩,
   ⟨0x070, 4, 4, fun k => .limHi (Fin.ofNat 4 k)⟩,
   ⟨0x080, 4, 4, fun k => .limLo (Fin.ofNat 4 k)⟩,
   ⟨0x090, 4, 4, fun k => .phys (Fin.ofNat 4 k)⟩] ++
  [⟨0x0A0, 1, 4, fun _ => .warmupCnt⟩,
   ⟨0x0A4, 3, 4, fun k => .wsum (Fin.ofNat 3 k)⟩]

/-- Rows 0x0B0 to 0x11F. -/
def mapFoc : List RegRow :=
  [⟨0x0B0, 1, 4, fun _ => .iAlpha⟩,
   ⟨0x0B4, 1, 4, fun _ => .iBeta⟩,
   ⟨0x0B8, 1, 4, fun _ => .iD⟩,
   ⟨0x0BC, 1, 4, fun _ => .iQ⟩,
   ⟨0x0C0, 1, 4, fun _ => .idReq⟩,
   ⟨0x0C4, 1, 4, fun _ => .iqReq⟩] ++
  [⟨0x0C8, 1, 4, fun _ => .vd⟩,
   ⟨0x0CC, 1, 4, fun _ => .vq⟩,
   ⟨0x0D0, 1, 4, fun _ => .vAlpha⟩,
   ⟨0x0D4, 1, 4, fun _ => .vBeta⟩,
   ⟨0x0D8, 1, 4, fun _ => .sin⟩,
   ⟨0x0DC, 1, 4, fun _ => .cos⟩] ++
  [⟨0x0E0, 1, 4, fun _ => .kpD⟩,
   ⟨0x0E4, 1, 4, fun _ => .kpQ⟩,
   ⟨0x0E8, 1, 4, fun _ => .kiD⟩,
   ⟨0x0EC, 1, 4, fun _ => .kiQ⟩,
   ⟨0x0F0, 1, 4, fun _ => .vdMax⟩,
   ⟨0x0F4, 1, 4, fun _ => .vqMax⟩] ++
  [⟨0x0F8, 1, 4, fun _ => .intD⟩,
   ⟨0x0FC, 1, 4, fun _ => .intQ⟩,
   ⟨0x100, 1, 4, fun _ => .piCnt⟩,
   ⟨0x104, 3, 4, fun k => .vph (Fin.ofNat 3 k)⟩,
   ⟨0x110, 3, 4, fun k => .ccr (Fin.ofNat 3 k)⟩,
   ⟨0x11C, 1, 4, fun _ => .phaseEn⟩]

/-- Rows 0x120 to 0x15F. -/
def mapEstimator : List RegRow :=
  [⟨0x120, 1, 4, fun _ => .theta⟩,
   ⟨0x124, 1, 4, fun _ => .trkStep⟩,
   ⟨0x128, 1, 4, fun _ => .trkInvper⟩,
   ⟨0x12C, 1, 4, fun _ => .trkCnt⟩,
   ⟨0x130, 1, 4, fun _ => .trkErr⟩,
   ⟨0x134, 1, 4, fun _ => .lastEvt⟩] ++
  [⟨0x138, 1, 4, fun _ => .trkAlpha⟩,
   ⟨0x13C, 1, 4, fun _ => .trkKerr⟩,
   ⟨0x140, 1, 4, fun _ => .trkRestart⟩,
   ⟨0x144, 1, 4, fun _ => .lastHallCenter⟩,
   ⟨0x150, 1, 4, fun _ => .fluxA⟩,
   ⟨0x154, 1, 4, fun _ => .fluxB⟩] ++
  [⟨0x158, 1, 4, fun _ => .fluxBlk⟩]

/-- Rows 0x160 to 0x1BF. -/
def mapMotor : List RegRow :=
  [⟨0x160, 1, 4, fun _ => .rPhase⟩,
   ⟨0x164, 1, 4, fun _ => .lPhase⟩,
   ⟨0x168, 1, 4, fun _ => .fluxLink⟩,
   ⟨0x16C, 1, 4, fun _ => .iMax⟩,
   ⟨0x180, 6, 8, fun k => .htSe (Fin.ofNat 6 k)⟩,
   ⟨0x184, 6, 8, fun k => .htCw (Fin.ofNat 6 k)⟩]

/-- Rows 0x1C0 to 0x27F. -/
def mapCommissioning : List RegRow :=
  [⟨0x1C0, 1, 4, fun _ => .measCnt⟩,
   ⟨0x1C4, 1, 4, fun _ => .measDuty⟩,
   ⟨0x1C8, 1, 4, fun _ => .measI1⟩,
   ⟨0x1CC, 1, 4, fun _ => .measI2⟩,
   ⟨0x1D0, 1, 4, fun _ => .measIh⟩,
   ⟨0x1D4, 1, 4, fun _ => .measIl⟩] ++
  [⟨0x1D8, 1, 4, fun _ => .measD12⟩,
   ⟨0x1E0, 1, 4, fun _ => .iTgt1⟩,
   ⟨0x1E4, 1, 4, fun _ => .iTgt2⟩,
   ⟨0x1E8, 1, 4, fun _ => .iBand⟩,
   ⟨0x1EC, 1, 4, fun _ => .measK⟩,
   ⟨0x1F0, 1, 4, fun _ => .measT1⟩] ++
  [⟨0x1F4, 1, 4, fun _ => .measT2⟩,
   ⟨0x1F8, 1, 4, fun _ => .measT3⟩,
   ⟨0x1FC, 1, 4, fun _ => .lFloor⟩,
   ⟨0x200, 1, 4, fun _ => .vInj⟩,
   ⟨0x204, 1, 4, fun _ => .alignT⟩,
   ⟨0x208, 1, 4, fun _ => .sweepStep⟩] ++
  [⟨0x20C, 1, 4, fun _ => .ctrlBw⟩,
   ⟨0x220, 6, 4, fun k => .hlCnt (Fin.ofNat 6 k)⟩,
   ⟨0x240, 6, 4, fun k => .hlSum (Fin.ofNat 6 k)⟩,
   ⟨0x260, 6, 4, fun k => .hlRef (Fin.ofNat 6 k)⟩]

/-- Rows 0x400 to 0x7FF. -/
def mapSintab : List RegRow :=
  [⟨0x400, 256, 4, fun k => .sintab (Fin.ofNat 256 k)⟩]

/-- The register map (10_state.md R31). -/
def regMap : List RegRow :=
  mapControl ++ mapPipeline ++ mapFoc ++ mapEstimator ++ mapMotor ++ mapCommissioning ++ mapSintab

/-- The register a row has at byte offset `a`, if any. -/
def RegRow.at? (row : RegRow) (a : Nat) : Option Reg :=
  if row.base ≤ a ∧ a < row.base + row.count * row.stride ∧ (a - row.base) % row.stride = 0 then
    some (row.name ((a - row.base) / row.stride))
  else none

/-- The register mapped at a byte address; `none` for a misaligned or unmapped address (20_memory.md R101, R103,
R105). -/
def Reg.ofAddr (a : BitVec 12) : Option Reg := regMap.findSome? fun row => row.at? a.toNat

/-- A register's byte offset (10_state.md R31). -/
def Reg.addr : Reg → Nat
  | .id => 0x000
  | .ctrl => 0x004
  | .cmd => 0x008
  | .status => 0x00C
  | .fault => 0x010
  | .fraw k => 0x014 + 4 * k
  | .cfg => 0x024
  | .pwmFull => 0x028
  | .clarkSat => 0x02C
  | .tPwm => 0x030
  | .vabToPwm => 0x034
  | .hallio => 0x038
  | .raw k => 0x040 + 4 * k
  | .gain k => 0x050 + 4 * k
  | .offset k => 0x060 + 4 * k
  | .limHi k => 0x070 + 4 * k
  | .limLo k => 0x080 + 4 * k
  | .phys k => 0x090 + 4 * k
  | .warmupCnt => 0x0A0
  | .wsum k => 0x0A4 + 4 * k
  | .iAlpha => 0x0B0
  | .iBeta => 0x0B4
  | .iD => 0x0B8
  | .iQ => 0x0BC
  | .idReq => 0x0C0
  | .iqReq => 0x0C4
  | .vd => 0x0C8
  | .vq => 0x0CC
  | .vAlpha => 0x0D0
  | .vBeta => 0x0D4
  | .sin => 0x0D8
  | .cos => 0x0DC
  | .kpD => 0x0E0
  | .kpQ => 0x0E4
  | .kiD => 0x0E8
  | .kiQ => 0x0EC
  | .vdMax => 0x0F0
  | .vqMax => 0x0F4
  | .intD => 0x0F8
  | .intQ => 0x0FC
  | .piCnt => 0x100
  | .vph k => 0x104 + 4 * k
  | .ccr k => 0x110 + 4 * k
  | .phaseEn => 0x11C
  | .theta => 0x120
  | .trkStep => 0x124
  | .trkInvper => 0x128
  | .trkCnt => 0x12C
  | .trkErr => 0x130
  | .lastEvt => 0x134
  | .trkAlpha => 0x138
  | .trkKerr => 0x13C
  | .trkRestart => 0x140
  | .lastHallCenter => 0x144
  | .fluxA => 0x150
  | .fluxB => 0x154
  | .fluxBlk => 0x158
  | .rPhase => 0x160
  | .lPhase => 0x164
  | .fluxLink => 0x168
  | .iMax => 0x16C
  | .htSe k => 0x180 + 8 * k
  | .htCw k => 0x184 + 8 * k
  | .measCnt => 0x1C0
  | .measDuty => 0x1C4
  | .measI1 => 0x1C8
  | .measI2 => 0x1CC
  | .measIh => 0x1D0
  | .measIl => 0x1D4
  | .measD12 => 0x1D8
  | .iTgt1 => 0x1E0
  | .iTgt2 => 0x1E4
  | .iBand => 0x1E8
  | .measK => 0x1EC
  | .measT1 => 0x1F0
  | .measT2 => 0x1F4
  | .measT3 => 0x1F8
  | .lFloor => 0x1FC
  | .vInj => 0x200
  | .alignT => 0x204
  | .sweepStep => 0x208
  | .ctrlBw => 0x20C
  | .hlCnt k => 0x220 + 4 * k
  | .hlSum k => 0x240 + 4 * k
  | .hlRef k => 0x260 + 4 * k
  | .sintab k => 0x400 + 4 * k

/-- A register's access type (10_state.md R31). -/
def Reg.access : Reg → Access
  | .ctrl | .cfg | .pwmFull | .clarkSat | .tPwm | .vabToPwm | .gain _ | .offset _ => .rw
  | .limHi _ | .limLo _ | .idReq | .iqReq | .kpD | .kpQ | .kiD | .kiQ => .rw
  | .vdMax | .vqMax | .theta | .trkAlpha | .trkKerr | .trkRestart | .rPhase | .lPhase => .rw
  | .fluxLink | .iMax | .htSe _ | .htCw _ | .iTgt1 | .iTgt2 | .iBand | .measK => .rw
  | .measT1 | .measT2 | .measT3 | .lFloor | .vInj | .alignT | .sweepStep | .ctrlBw => .rw
  | .cmd => .wo
  | .id | .status | .fault | .fraw _ | .hallio | .raw _ | .phys _ | .warmupCnt => .ro
  | .wsum _ | .iAlpha | .iBeta | .iD | .iQ | .vd | .vq | .vAlpha => .ro
  | .vBeta | .sin | .cos | .intD | .intQ | .piCnt | .vph _ | .ccr _ => .ro
  | .phaseEn | .trkStep | .trkInvper | .trkCnt | .trkErr | .lastEvt | .lastHallCenter | .fluxA => .ro
  | .fluxB | .fluxBlk | .measCnt | .measDuty | .measI1 | .measI2 | .measIh | .measIl => .ro
  | .measD12 | .hlCnt _ | .hlSum _ | .hlRef _ | .sintab _ => .ro

/-- The defined bits of a register; every other bit is reserved (10_state.md R31, 20_memory.md R107). -/
def Reg.fieldMask : Reg → Word
  | .id | .tPwm | .vabToPwm | .gain _ | .offset _ | .phys _ | .wsum _ | .iAlpha => 0xFFFFFFFF
  | .iBeta | .iD | .iQ | .idReq | .iqReq | .vd | .vq | .vAlpha => 0xFFFFFFFF
  | .vBeta | .sin | .cos | .kpD | .kpQ | .kiD | .kiQ | .vdMax => 0xFFFFFFFF
  | .vqMax | .intD | .intQ | .vph _ | .trkStep | .trkInvper | .trkCnt | .trkErr => 0xFFFFFFFF
  | .trkAlpha | .trkKerr | .trkRestart | .fluxA | .fluxB | .rPhase | .lPhase | .fluxLink => 0xFFFFFFFF
  | .iMax | .htSe _ | .htCw _ | .measCnt | .measI1 | .measI2 | .measIh | .measIl => 0xFFFFFFFF
  | .measD12 | .iTgt1 | .iTgt2 | .iBand | .measK | .measT1 | .measT2 | .measT3 => 0xFFFFFFFF
  | .lFloor | .vInj | .alignT | .ctrlBw | .hlCnt _ | .hlSum _ | .sintab _ => 0xFFFFFFFF
  | .ctrl => 0x00000003
  | .cmd => 0x00000000
  | .status => 0x003F3F7F
  | .fault => 0x0000FF07
  | .fraw _ | .pwmFull | .clarkSat | .raw _ | .limHi _ | .limLo _ | .warmupCnt | .ccr _ => 0x0000FFFF
  | .theta | .lastEvt | .lastHallCenter | .measDuty | .sweepStep | .hlRef _ => 0x0000FFFF
  | .cfg | .piCnt | .fluxBlk => 0x000000FF
  | .hallio => 0x00000F77
  | .phaseEn => 0x00000007

/-- The 32-bit value of a register: its fields at their places, reserved bits 0 (20_memory.md R107). `tab` is the
parameter SINTAB (00_scope.md R12). -/
def Reg.read (r : Reg) (s : State) (tab : Fin 256 → Word := Machine.sintab) : Word :=
  match r with
  | .id => Config.idValue
  | .ctrl => (0 : BitVec 30) ++ BitVec.ofBool s.ctl.paramsValid ++ BitVec.ofBool s.ctl.run
  | .cmd => 0
  | .status => s.ctl.status.toWord
  | .fault => faultWord s.ctl.code s.ctl.violCnt
  | .fraw k => (s.ctl.fraw.get k).setWidth 32
  | .cfg => (s.ctl.piDiv).setWidth 32
  | .pwmFull => (s.ctl.pwmFull).setWidth 32
  | .clarkSat => (s.ctl.clarkSat).setWidth 32
  | .tPwm => s.ctl.tPwm
  | .vabToPwm => s.ctl.vabToPwm
  | .hallio => (0 : BitVec 20) ++ s.ctl.probe ++ (0 : BitVec 1) ++ s.ctl.lastHall ++ (0 : BitVec 1) ++ s.ctl.hallRaw
  | .raw k => (s.pipe.raw.get k).setWidth 32
  | .gain k => s.pipe.gain.get k
  | .offset k => s.pipe.offset.get k
  | .limHi k => (s.pipe.limHi.get k).setWidth 32
  | .limLo k => (s.pipe.limLo.get k).setWidth 32
  | .phys k => s.pipe.phys.get k
  | .warmupCnt => (s.pipe.warmupCnt).setWidth 32
  | .wsum k => s.pipe.wsum.get k
  | .iAlpha => s.foc.iAlpha
  | .iBeta => s.foc.iBeta
  | .iD => s.foc.iD
  | .iQ => s.foc.iQ
  | .idReq => s.foc.idReq
  | .iqReq => s.foc.iqReq
  | .vd => s.foc.vd
  | .vq => s.foc.vq
  | .vAlpha => s.foc.vAlpha
  | .vBeta => s.foc.vBeta
  | .sin => s.foc.sin
  | .cos => s.foc.cos
  | .kpD => s.foc.kpD
  | .kpQ => s.foc.kpQ
  | .kiD => s.foc.kiD
  | .kiQ => s.foc.kiQ
  | .vdMax => s.foc.vdMax
  | .vqMax => s.foc.vqMax
  | .intD => s.foc.intD
  | .intQ => s.foc.intQ
  | .piCnt => (s.foc.piCnt).setWidth 32
  | .vph k => s.foc.vph.get k
  | .ccr k => (s.foc.ccr.get k).setWidth 32
  | .phaseEn => (0 : BitVec 29) ++ BitVec.ofBool s.foc.phaseEn.c ++ BitVec.ofBool s.foc.phaseEn.b ++ BitVec.ofBool s.foc.phaseEn.a
  | .theta => (s.est.theta).setWidth 32
  | .trkStep => s.est.trkStep
  | .trkInvper => s.est.trkInvper
  | .trkCnt => s.est.trkCnt
  | .trkErr => s.est.trkErr
  | .lastEvt => (s.est.lastEvt).setWidth 32
  | .trkAlpha => s.est.trkAlpha
  | .trkKerr => s.est.trkKerr
  | .trkRestart => s.est.trkRestart
  | .lastHallCenter => (s.est.lastHallCenter).setWidth 32
  | .fluxA => s.est.fluxA
  | .fluxB => s.est.fluxB
  | .fluxBlk => (s.est.fluxBlk).setWidth 32
  | .rPhase => s.mot.rPhase
  | .lPhase => s.mot.lPhase
  | .fluxLink => s.mot.fluxLink
  | .iMax => s.mot.iMax
  | .htSe k => (s.mot.ht.get k).stop ++ (s.mot.ht.get k).start
  | .htCw k => (s.mot.ht.get k).width ++ (s.mot.ht.get k).center
  | .measCnt => s.com.measCnt
  | .measDuty => (s.com.measDuty).setWidth 32
  | .measI1 => s.com.measI1
  | .measI2 => s.com.measI2
  | .measIh => s.com.measIh
  | .measIl => s.com.measIl
  | .measD12 => s.com.d2 ++ s.com.d1
  | .iTgt1 => s.com.iTgt1
  | .iTgt2 => s.com.iTgt2
  | .iBand => s.com.iBand
  | .measK => s.com.measK
  | .measT1 => s.com.measT1
  | .measT2 => s.com.measT2
  | .measT3 => s.com.measT3
  | .lFloor => s.com.lFloor
  | .vInj => s.com.vInj
  | .alignT => s.com.alignT
  | .sweepStep => (s.com.sweepStep).setWidth 32
  | .ctrlBw => s.com.ctrlBw
  | .hlCnt k => (s.com.hl.get k).cnt
  | .hlSum k => (s.com.hl.get k).sum
  | .hlRef k => ((s.com.hl.get k).ref).setWidth 32
  | .sintab k => tab k

/-- A host write to a register: an RW register's defined fields take the bits of `v` (20_memory.md R104, R107); a
register of another access type has no storage a host write reaches (R106, R108). -/
def Reg.write (r : Reg) (v : Word) (s : State) : State :=
  match r with
  | .ctrl => s.onCtl fun c => { c with run := v.getLsbD 0, paramsValid := v.getLsbD 1 }
  | .cfg => s.onCtl fun c => { c with piDiv := v.setWidth 8 }
  | .pwmFull => s.onCtl fun c => { c with pwmFull := v.setWidth 16 }
  | .clarkSat => s.onCtl fun c => { c with clarkSat := v.setWidth 16 }
  | .tPwm => s.onCtl fun c => { c with tPwm := v }
  | .vabToPwm => s.onCtl fun c => { c with vabToPwm := v }
  | .gain k => s.onPipe fun p => { p with gain := p.gain.set k v }
  | .offset k => s.onPipe fun p => { p with offset := p.offset.set k v }
  | .limHi k => s.onPipe fun p => { p with limHi := p.limHi.set k (v.setWidth 16) }
  | .limLo k => s.onPipe fun p => { p with limLo := p.limLo.set k (v.setWidth 16) }
  | .idReq => s.onFoc fun f => { f with idReq := v }
  | .iqReq => s.onFoc fun f => { f with iqReq := v }
  | .kpD => s.onFoc fun f => { f with kpD := v }
  | .kpQ => s.onFoc fun f => { f with kpQ := v }
  | .kiD => s.onFoc fun f => { f with kiD := v }
  | .kiQ => s.onFoc fun f => { f with kiQ := v }
  | .vdMax => s.onFoc fun f => { f with vdMax := v }
  | .vqMax => s.onFoc fun f => { f with vqMax := v }
  | .theta => s.onEst fun e => { e with theta := v.setWidth 16 }
  | .trkAlpha => s.onEst fun e => { e with trkAlpha := v }
  | .trkKerr => s.onEst fun e => { e with trkKerr := v }
  | .trkRestart => s.onEst fun e => { e with trkRestart := v }
  | .rPhase => s.onMot fun m => { m with rPhase := v }
  | .lPhase => s.onMot fun m => { m with lPhase := v }
  | .fluxLink => s.onMot fun m => { m with fluxLink := v }
  | .iMax => s.onMot fun m => { m with iMax := v }
  | .htSe k => s.onMot fun m => { m with ht := m.ht.set k { m.ht.get k with start := v.extractLsb' 0 16, stop := v.extractLsb' 16 16 } }
  | .htCw k => s.onMot fun m => { m with ht := m.ht.set k { m.ht.get k with center := v.extractLsb' 0 16, width := v.extractLsb' 16 16 } }
  | .iTgt1 => s.onCom fun c => { c with iTgt1 := v }
  | .iTgt2 => s.onCom fun c => { c with iTgt2 := v }
  | .iBand => s.onCom fun c => { c with iBand := v }
  | .measK => s.onCom fun c => { c with measK := v }
  | .measT1 => s.onCom fun c => { c with measT1 := v }
  | .measT2 => s.onCom fun c => { c with measT2 := v }
  | .measT3 => s.onCom fun c => { c with measT3 := v }
  | .lFloor => s.onCom fun c => { c with lFloor := v }
  | .vInj => s.onCom fun c => { c with vInj := v }
  | .alignT => s.onCom fun c => { c with alignT := v }
  | .sweepStep => s.onCom fun c => { c with sweepStep := v.setWidth 16 }
  | .ctrlBw => s.onCom fun c => { c with ctrlBw := v }
  | .id | .cmd | .status | .fault | .fraw _ | .hallio | .raw _ | .phys _ => s
  | .warmupCnt | .wsum _ | .iAlpha | .iBeta | .iD | .iQ | .vd | .vq => s
  | .vAlpha | .vBeta | .sin | .cos | .intD | .intQ | .piCnt | .vph _ => s
  | .ccr _ | .phaseEn | .trkStep | .trkInvper | .trkCnt | .trkErr | .lastEvt | .lastHallCenter => s
  | .fluxA | .fluxB | .fluxBlk | .measCnt | .measDuty | .measI1 | .measI2 | .measIh => s
  | .measIl | .measD12 | .hlCnt _ | .hlSum _ | .hlRef _ | .sintab _ => s

/-- The byte at a byte address of the register space, little-endian within each register; `none` where nothing is
mapped (20_memory.md R102). -/
def State.readByte (s : State) (a : BitVec 12) (tab : Fin 256 → Word := Machine.sintab) : Option Byte :=
  (Reg.ofAddr (a &&& 0xFFC)).map fun r => (Reg.read r s tab).extractLsb' (8 * (a.toNat % 4)) 8

end Sys2Proof.Machine
end

