-- ==== Sys2Proof/Machine/Ops.lean ====
section
/-! DEFINITION. The named operations the meanings share: output control, taking a fault and the return from it, host
access to the register space, reset, and fetching the next instruction. -/

namespace Sys2Proof.Machine

/-- Change the STATUS fields. -/
def State.onStatus (s : State) (f : Status → Status) : State := s.onCtl fun c => { c with status := f c.status }

/-- `state <- S`: the block's only control transfer (00_scope.md R21). -/
def State.goto (s : State) (st : OpState) : State := s.onStatus fun t => { t with opstate := st }

/-! ## Output control -/

/-- Every phase inactive: OUTOFF's effect (43_controller.md R267). -/
def outputsOff (s : State) : State := s.onFoc fun f => { f with phaseEn := Phase.all false }

/-- The software break: BREAK's effect (43_controller.md R266). The compare values stay. -/
def softwareBreak (s : State) : State := (outputsOff s).onStatus fun t => { t with swBrk := true }

/-- `drive(D)` of resistance and inductance identification: phase a at duty D, phase b low, phase c inactive
(45_commissioning.md R330). -/
def drivePhases (duty : Half) (s : State) : State :=
  s.onFoc fun f => { f with ccr := ⟨duty, 0, 0⟩, phaseEn := ⟨true, true, false⟩ }

/-! ## Taking a fault, and the return from it -/

/-- The latch of `raise Fault(code)`: the first code stays (60_exceptions.md R402, R403). -/
def latchFault (code : FaultCode) (s : State) : State :=
  if s.ctl.status.faultLatched then s
  else s.onCtl fun c => { c with code := code, status := { c.status with faultLatched := true } }

/-- `raise Fault(code)`: latch the code, enter Error, run BREAK (60_exceptions.md R402, R411). That the rest of the
cycle is skipped is `UopOut.raised`'s part (44_state_machine.md R293). -/
def raiseFault (code : FaultCode) (s : State) : State := softwareBreak ((latchFault code s).goto .error)

/-- The return from Error, FAULT_RESET: Error to Detecting, with the latch, the software break, the violation counter
and the integrators cleared; no effect in any other state (46_host_interface.md R376, 60_exceptions.md R412). -/
def leaveError (s : State) : State :=
  if s.ctl.status.opstate = .error then
    (s.onFoc fun f => { f with intD := 0, intQ := 0 }).onCtl fun c =>
      { c with
        code := .none
        violCnt := 0
        status := { c.status with faultLatched := false, swBrk := false, opstate := .detecting } }
  else s

/-- CLEAR_DIRTY's effect (46_host_interface.md R377). -/
def clearDirtyFlag (s : State) : State := s.onStatus fun t => { t with dirty := false }

/-- The commands of a WR to CMD, FAULT_RESET first (10_state.md R35, 46_host_interface.md R378). -/
def runCommands (v : Word) (s : State) : State :=
  let s := if v.getLsbD 0 then leaveError s else s
  if v.getLsbD 1 then clearDirtyFlag s else s

/-- How a micro-operation ends: it ran to its end, or it raised a fault, which ends the cycle's sequence
(44_state_machine.md R293). -/
inductive UopOut where
  | done (s : State)
  | raised (s : State)
  deriving DecidableEq, Repr

/-- The state a micro-operation leaves. -/
def UopOut.state : UopOut → State
  | .done s => s
  | .raised s => s

/-! ## Host access to the register space -/

/-- MemRead of a 32-bit register with its response: data, or a bus error for a misaligned or unmapped address
(46_host_interface.md R370, R375). A read has no side effect (20_memory.md R109). -/
def hostRead (a : BitVec 12) (s : State) (tab : Fin 256 → Word := sintab) : State :=
  match Reg.ofAddr a with
  | some r => s.respond (.data (r.read s tab))
  | none => s.respond (.busError a)

/-- MemWrite of a 32-bit register with its response (46_host_interface.md R371, R375): an RW register stores its
fields, CMD runs its commands, and a misaligned, unmapped or read-only address is a bus error that changes no
register. -/
def hostWrite (a : BitVec 12) (v : Word) (s : State) : State :=
  match Reg.ofAddr a with
  | some r =>
    match r.access with
    | .rw => (r.write v s).respond .ok
    | .wo => (runCommands v s).respond .ok
    | .ro => s.respond (.busError a)
  | none => s.respond (.busError a)

/-- Only a RESET may come before the first RESET (70_reset_and_hazards.md R451). -/
def afterReset (s : State) (k : State → Host.Outcome State Fault Refusal) : Host.Outcome State Fault Refusal :=
  if s.resetSeen then k s else .refused .beforeReset

/-- RESET: every register takes its reset value and every cycle-local value is gone (70_reset_and_hazards.md R450). The
transactions still to come, the responses given and the counter of free values are the run's, not the block's
(log entries 1, 6 and 14). -/
def resetBlock (s : State) : State :=
  { State.reset with draws := s.draws, stream := s.stream, responses := s.responses }

/-! ## Output ports -/

/-- `out.CCR[0..2]` (10_state.md R85). -/
def State.outCcr (s : State) : Phase Half := s.foc.ccr

/-- `out.EN[0..2]` (10_state.md R85). -/
def State.outEn (s : State) : Phase Bool := s.foc.phaseEn

/-- `out.SWBRK` (10_state.md R85). -/
def State.outSwbrk (s : State) : Bool := s.ctl.status.swBrk

/-! ## Fetching -/

/-- The refusal of a stream that decodes to no instruction; an empty stream is no refusal (30_encoding.md R140, R144). -/
def refusalOf : DecodeError → Option Refusal
  | .noTransaction => none
  | .reservedBits => some .illegalHead
  | .missingSample => some .missingSample
  | .straySample => some .straySample
  | .reservedUop => some .reservedUop

/-- What the next step does: run an instruction with the rest of the stream left, wait (no transaction is presented:
between TICKs the block does nothing and keeps all state, 60_exceptions.md R419; log entry 1), or refuse. -/
inductive Fetched where
  | run (i : Instr) (rest : List BusWord)
  | wait
  | refuse (r : Refusal)
  deriving DecidableEq, Repr

/-- Read the next instruction of the stream. -/
def fetch (stream : List BusWord) : Fetched :=
  match decode stream with
  | .ok (i, rest) => .run i rest
  | .error e =>
    match refusalOf e with
    | some r => .refuse r
    | none => .wait

end Sys2Proof.Machine
end

