-- ==== Sys2Proof/Machine/Commissioning.lean ====
section
/-! DEFINITION. Self-commissioning (45_commissioning.md): MEAS_RL, GAINCALC, HL_ALIGN, HL_FWD, HL_REV, HL_FINISH,
INJECT. None raises a fault. -/

namespace Sys2Proof.Machine

/-! ## Resistance and inductance identification -/

/-- The measured phase-b current, signed (R330). -/
def measIb (s : State) : Word := s.pipe.phys.ib

/-- Its magnitude `im = -ib` (R330). -/
def measIm (s : State) (N : Num := F32.binary32) : Word := N.neg (measIb s)

/-- The exponential filter `x + K * (y - x)` with K = MEAS_K (R331), as binary32 rounds it (log entry 33). -/
def measFilter (s : State) (site : Nat) (x y : Word) (N : Num := F32.binary32) : Word :=
  N.add (s.nan (site + 2)) x (N.mul (s.nan (site + 1)) s.com.measK (N.sub (s.nan site) y x))

/-- The duty nudged one count towards the target band, within 0..PWM_FULL (R331). Where the duty is above a PWM_FULL the host
has lowered, the step up falls to PWM_FULL (log entry 33). -/
def nudgeDuty (s : State) (tgt : Word) (N : Num := F32.binary32) : Half :=
  let d := s.com.measDuty.toNat
  if N.lt (measIm s N) (N.sub (s.nan 0) tgt s.com.iBand) then BitVec.ofNat 16 (min (d + 1) s.ctl.pwmFull.toNat)
  else if F32.gt (measIm s N) (N.add (s.nan 1) tgt s.com.iBand) N then (if 0 < d then BitVec.ofNat 16 (d - 1) else 0)
  else s.com.measDuty

/-- A cycle of the first operating point, `c < T1` (R331). -/
def measPoint1 (s : State) (N : Num := F32.binary32) : State :=
  let duty := nudgeDuty s s.com.iTgt1 N
  let last : Bool := s.com.measCnt.toNat + 1 == s.com.measT1.toNat
  drivePhases duty
    ((s.onCom fun x =>
      { x with
        measDuty := duty
        measI1 := measFilter s 2 x.measI1 (measIb s) N
        d1 := if last then duty else x.d1 }).onStatus fun t => { t with subphase := .rlP1 })

/-- A cycle of the second operating point, `T1 <= c < T2` (R331). -/
def measPoint2 (s : State) (N : Num := F32.binary32) : State :=
  let duty := nudgeDuty s s.com.iTgt2 N
  let last : Bool := s.com.measCnt.toNat + 1 == s.com.measT2.toNat
  drivePhases duty
    ((s.onCom fun x =>
      { x with
        measDuty := duty
        measI2 := measFilter s 2 x.measI2 (measIb s) N
        d2 := if last then duty else x.d2 }).onStatus fun t => { t with subphase := .rlP2 })

/-- `resistance()`: the two-point slope (R332). -/
def resistance (s : State) (N : Num := F32.binary32) : Word :=
  let dd := N.ofInt ((s.com.d2.toNat : Int) - s.com.d1.toNat)
  let scale := N.mul (s.nan 0) F32.two (N.ofNat s.ctl.pwmFull.toNat)
  let volts := N.mul (s.nan 2) (N.div (s.nan 1) dd scale) s.pipe.phys.vbus
  N.div (s.nan 4) volts (N.sub (s.nan 3) s.com.measI1 s.com.measI2)

/-- The resistance cycle, `c = T2` (R331, R332). -/
def measResistance (s : State) (N : Num := F32.binary32) : State :=
  drivePhases s.com.measDuty
    ((s.onMot fun m => { m with rPhase := resistance s N }).onStatus fun t => { t with subphase := .rlL })

/-- A cycle of the ripple phase, `T2 < c < T3`, with `k = c - T2` (R333). -/
def measRipple (s : State) (N : Num := F32.binary32) : State :=
  if (s.com.measCnt.toNat - s.com.measT2.toNat) % 2 = 1 then
    drivePhases 0 (s.onCom fun x => { x with measIh := measFilter s 0 x.measIh (measIm s N) N })
  else drivePhases s.com.measDuty (s.onCom fun x => { x with measIl := measFilter s 0 x.measIl (measIm s N) N })

/-- The inductance (R334): halved, and L_FLOOR where the result is not positive, minus infinity among them (log entry 33). -/
def inductance (s : State) (N : Num := F32.binary32) : Word :=
  let i := N.mul (s.nan 1) F32.half (N.add (s.nan 0) s.com.measIh s.com.measIl)
  let di := N.sub (s.nan 2) s.com.measIh s.com.measIl
  let num := N.mul (s.nan 4) (N.mul (s.nan 3) i s.mot.rPhase) s.ctl.tPwm
  let l := N.mul (s.nan 6) F32.half (N.div (s.nan 5) num di)
  if F32.gt l (F32.zero false) N then l else s.com.lFloor

/-- The proportional gain `L * CTRL_BW` (R335). -/
def gainKp (s : State) (N : Num := F32.binary32) : Word := N.mul (s.nan 0) s.mot.lPhase s.com.ctrlBw

/-- The integral gain `((R * CTRL_BW) * T_PWM) * f32(N)` (R335). -/
def gainKi (s : State) (N : Num := F32.binary32) : Word :=
  N.mul (s.nan 3) (N.mul (s.nan 2) (N.mul (s.nan 1) s.mot.rPhase s.com.ctrlBw) s.ctl.tPwm)
    (N.ofNat (atLeastOne s.ctl.piDiv))

/-- GAINCALC, the gain recalculation after identification (R335). -/
def uopGaincalc (s : State) (N : Num := F32.binary32) : State :=
  (s.onFoc fun f => { f with kpD := gainKp s N, kpQ := gainKp s N, kiD := gainKi s N, kiQ := gainKi s N }).drawn

/-- `complete()`: the inductance, GAINCALC, DIRTY, OUTOFF, and on to Detecting (R336). -/
def completeRl (s : State) (N : Num := F32.binary32) : State :=
  let t := uopGaincalc ((s.onMot fun m => { m with lPhase := inductance s N }).drawn) N
  (outputsOff (t.onStatus fun x => { x with dirty := true })).goto .detecting

/-- Advance MEAS_CNT, saturating (R331). -/
def advanceMeas (s : State) : State := s.onCom fun x => { x with measCnt := satInc x.measCnt }

/-- MEAS_RL, one step of resistance and inductance identification (R331 to R336). -/
def uopMeasRl (s : State) (N : Num := F32.binary32) : State :=
  let c := s.com.measCnt.toNat
  let t1 := s.com.measT1.toNat
  let t2 := s.com.measT2.toNat
  let t3 := s.com.measT3.toNat
  if c < t1 then (advanceMeas (measPoint1 s N)).drawn
  else if c < t2 then (advanceMeas (measPoint2 s N)).drawn
  else if c = t2 then (advanceMeas (measResistance s N)).drawn
  else if c < t3 then (advanceMeas (measRipple s N)).drawn
  else completeRl s N

/-! ## Hall-table learning -/

/-- INJECT, the open-loop d-axis voltage (R345). -/
def uopInject (s : State) : State := s.onFoc fun f => { f with vd := s.com.vInj, vq := F32.zero false }

/-- HL_ALIGN, one cycle of the fixed-duration rotor alignment (R340). -/
def uopHlAlign (s : State) : State :=
  let t := s.onEst fun x => { x with theta := 0 }
  if s.com.alignT.toNat ≤ s.com.measCnt.toNat + 1 then
    (t.onStatus fun x => { x with subphase := .hlFwd }).onCom fun x => { x with measCnt := 0 }
  else t.onCom fun x => { x with measCnt := x.measCnt + 1 }

/-- One sector's accumulators after seeing angle `a` (R341). -/
def accumulated (acc : HlAcc) (a : Half) : HlAcc :=
  let ref := if acc.cnt = 0 then a else acc.ref
  { cnt := satInc acc.cnt, sum := acc.sum + BitVec.ofInt 32 (s16 (a - ref)), ref := ref }

/-- `accumulate(h, a)` (R341). A Hall state that names no sector has no accumulator, so nothing is accumulated; inside a
cycle HALL has already faulted on it (log entry 12). -/
def accumulate (h : BitVec 3) (a : Half) (s : State) : State :=
  match hallSector h with
  | some k => s.onCom fun x => { x with hl := x.hl.set k (accumulated (x.hl.get k) a) }
  | none => s

/-- HL_FWD, one cycle of the forward sweep (R342). -/
def uopHlFwd (s : State) : State :=
  let a := s.est.theta
  let t := accumulate s.ctl.hallRaw a s
  let st := atLeastOne s.com.sweepStep
  if 65535 - a.toNat < st then t.onStatus fun x => { x with subphase := .hlRev }
  else t.onEst fun x => { x with theta := BitVec.ofNat 16 (a.toNat + st) }

/-- One sector's Hall table entry from its accumulators (R344): the mean angle as centre, the count as width, and
start and end as centre -+ half the width; an unseen sector is all zeros. -/
def learnedEntry (acc : HlAcc) : HallEntry :=
  let n := acc.cnt.toNat
  if n = 0 then { start := 0, stop := 0, center := 0, width := 0 }
  else
    let c := wrap16 ((acc.ref.toNat : Int) + Int.tdiv acc.sum.toInt n)
    let w := min n 65535
    { start := c - BitVec.ofNat 16 (w / 2), stop := c + BitVec.ofNat 16 (w / 2), center := c
      width := BitVec.ofNat 16 w }

/-- LAST_HALL_CENTER from the new table, where LAST_HALL names a sector (R344). -/
def relearnCenter (s : State) : State :=
  match hallSector s.ctl.lastHall with
  | some k => s.onEst fun x => { x with lastHallCenter := (s.mot.ht.get k).center }
  | none => s

/-- HL_FINISH builds the Hall table from the accumulators and enters HallRun (R344). -/
def uopHlFinish (s : State) : State :=
  let t := s.onMot fun m => { m with ht := Sector.ofFn fun k => learnedEntry (s.com.hl.get k) }
  ((relearnCenter t).onStatus fun x => { x with htValid := true, dirty := true }).goto .hallRun

/-- HL_REV, one cycle of the backward sweep; HL_FINISH at its end (R343). -/
def uopHlRev (s : State) : State :=
  let a := s.est.theta
  let t := accumulate s.ctl.hallRaw a s
  let st := atLeastOne s.com.sweepStep
  if a.toNat < st then uopHlFinish t
  else t.onEst fun x => { x with theta := BitVec.ofNat 16 (a.toNat - st) }

/-! ## The meanings -/

/-- MEAS_RL (R331). -/
def execMeasRl (s : State) : Host.Outcome State Fault Refusal := .next (uopMeasRl s)

/-- GAINCALC (R335). -/
def execGaincalc (s : State) : Host.Outcome State Fault Refusal := .next (uopGaincalc s)

/-- HL_ALIGN (R340). -/
def execHlAlign (s : State) : Host.Outcome State Fault Refusal := .next (uopHlAlign s)

/-- HL_FWD (R342). -/
def execHlFwd (s : State) : Host.Outcome State Fault Refusal := .next (uopHlFwd s)

/-- HL_REV (R343). -/
def execHlRev (s : State) : Host.Outcome State Fault Refusal := .next (uopHlRev s)

/-- HL_FINISH (R344). -/
def execHlFinish (s : State) : Host.Outcome State Fault Refusal := .next (uopHlFinish s)

/-- INJECT (R345). -/
def execInject (s : State) : Host.Outcome State Fault Refusal := .next (uopInject s)

end Sys2Proof.Machine
end

