-- ==== Sys2Proof/Machine/Controller.lean ====
section
/-! DEFINITION. The current controller and modulator (43_controller.md): PI, INVPARK, INVCLARK, SVPWM, PWMOUT, BREAK,
OUTOFF. -/

namespace Sys2Proof.Machine

/-- The integrator of one axis after an update: `clampf(INT + KI*e, -VMAX, VMAX)` (R261). DEDUCED (log entry 34; unsafe): R261's
corner case bounds the integrator by VMAX whenever no operand is a NaN, its pseudocode gives a NaN where infinities meet
(`0 * inf`, `inf - inf`); the pseudocode is followed. -/
def piIntegrator (s : State) (site : Nat) (int ki e vmax : Word) (N : Num := F32.binary32) : Word :=
  F32.clampf (N.add (s.nan (site + 1)) int (N.mul (s.nan site) ki e)) (N.neg vmax) vmax N

/-- The output of one axis: `clampf(KP*e + i, -VMAX, VMAX)` (R261), a NaN where infinities meet (log entry 34). -/
def piOutput (s : State) (site : Nat) (i kp e vmax : Word) (N : Num := F32.binary32) : Word :=
  F32.clampf (N.add (s.nan (site + 1)) (N.mul (s.nan site) kp e) i) (N.neg vmax) vmax N

/-- The control law for the d axis, then the q axis (R261). -/
def piLaw (s : State) (N : Num := F32.binary32) : State :=
  let f := s.foc
  let eD := N.sub (s.nan 0) f.idReq f.iD
  let iD := piIntegrator s 1 f.intD f.kiD eD f.vdMax N
  let eQ := N.sub (s.nan 5) f.iqReq f.iQ
  let iQ := piIntegrator s 6 f.intQ f.kiQ eQ f.vqMax N
  s.onFoc fun x =>
    { x with
      intD := iD
      vd := piOutput s 3 iD f.kpD eD f.vdMax N
      intQ := iQ
      vq := piOutput s 8 iQ f.kpQ eQ f.vqMax N }

/-- PI: the divisor counter, and the law when it reaches the divisor (R260, R261). -/
def uopPi (s : State) (N : Num := F32.binary32) : State :=
  let c := s.foc.piCnt.toNat + 1
  if atLeastOne s.ctl.piDiv ≤ c then ((piLaw s N).onFoc fun f => { f with piCnt := 0 }).drawn
  else s.onFoc fun f => { f with piCnt := BitVec.ofNat 8 c }

/-- INVPARK, the inverse Park transform with the current angle (R262). DEDUCED (log entry 30; unsafe): for VD = VQ = +0.0
with SIN and COS both negative, R262's corner case gives V_BETA = +0.0, its pseudocode under R20 gives -0.0; the
pseudocode is followed. -/
def uopInvpark (s : State) (N : Num := F32.binary32) : State :=
  let f := s.foc
  let alpha := N.sub (s.nan 2) (N.mul (s.nan 0) f.cos f.vd) (N.mul (s.nan 1) f.sin f.vq)
  let beta := N.add (s.nan 5) (N.mul (s.nan 3) f.sin f.vd) (N.mul (s.nan 4) f.cos f.vq)
  (s.onFoc fun f => { f with vAlpha := alpha, vBeta := beta }).drawn

/-- INVCLARK, the inverse Clark transform to three unmodulated phase voltages (R263). -/
def uopInvclark (s : State) (N : Num := F32.binary32) : State :=
  let va := s.foc.vAlpha
  let vb := s.foc.vBeta
  let b := N.add (s.nan 2) (N.mul (s.nan 0) F32.negHalf va) (N.mul (s.nan 1) F32.s32 vb)
  let c := N.sub (s.nan 5) (N.mul (s.nan 3) F32.negHalf va) (N.mul (s.nan 4) F32.s32 vb)
  (s.onFoc fun f => { f with vph := ⟨va, b, c⟩ }).drawn

/-- The three midpoint-clamped compare values (R264). -/
def svpwmDuties (s : State) (N : Num := F32.binary32) : Phase Half :=
  let full := s.ctl.pwmFull
  let d (k : Fin 3) : Word := N.mul (s.nan k) (s.foc.vph.get k) s.ctl.vabToPwm
  let mx := F32.maxf3 (d 0) (d 1) (d 2) N
  let mn := F32.minf3 (d 0) (d 1) (d 2) N
  let mid :=
    N.sub (s.nan 6) (N.mul (s.nan 3) F32.half (N.ofNat full.toNat))
      (N.mul (s.nan 5) F32.half (N.add (s.nan 4) mx mn))
  Phase.ofFn fun k => toDuty (N.add (s.nan (7 + k.val)) (d k) mid) full N

/-- SVPWM computes `ccr_next`, which is cycle-local (R264). -/
def uopSvpwm (s : State) (N : Num := F32.binary32) : State :=
  (s.onCyc fun x => { x with ccrNext := some (svpwmDuties s N) }).drawn

/-- PWMOUT drives the new compare values with all three phases enabled (R265). -/
def uopPwmout (s : State) : State :=
  (s.onFoc fun f => { f with ccr := s.ccrNextIn, phaseEn := Phase.all true }).drawn

/-- BREAK, the software break (R266). -/
def uopBreak (s : State) : State := softwareBreak s

/-- OUTOFF: all phase outputs inactive, no break (R267). -/
def uopOutoff (s : State) : State := outputsOff s

/-! ## The meanings -/

/-- PI (R260, R261). -/
def execPi (s : State) : Host.Outcome State Fault Refusal := .next (uopPi s)

/-- INVPARK (R262). -/
def execInvpark (s : State) : Host.Outcome State Fault Refusal := .next (uopInvpark s)

/-- INVCLARK (R263). -/
def execInvclark (s : State) : Host.Outcome State Fault Refusal := .next (uopInvclark s)

/-- SVPWM (R264). -/
def execSvpwm (s : State) : Host.Outcome State Fault Refusal := .next (uopSvpwm s)

/-- PWMOUT (R265). -/
def execPwmout (s : State) : Host.Outcome State Fault Refusal := .next (uopPwmout s)

/-- BREAK (R266). -/
def execBrk (s : State) : Host.Outcome State Fault Refusal := .next (uopBreak s)

/-- OUTOFF (R267). -/
def execOutoff (s : State) : Host.Outcome State Fault Refusal := .next (uopOutoff s)

end Sys2Proof.Machine
end

