-- ==== Sys2Proof/Machine/Estimator.lean ====
section
/-! DEFINITION. The position and flux estimator (42_estimator.md): HALL, FLUX, TRACK. -/

namespace Sys2Proof.Machine

/-- The fault of a Hall state that names no sector: 0 or 7 (R220). -/
def invalidHallCode (h : BitVec 3) : FaultCode := if h = 0 then .invalidHallState0 else .invalidHallState7

/-- HALL, the edge detector and angle lookup (R220). -/
def uopHall (s : State) : UopOut :=
  let h := s.ctl.hallRaw
  match hallSector h with
  | none => .raised (raiseFault (invalidHallCode h) s)
  | some k =>
    if h ≠ s.ctl.lastHall then
      let c := (s.mot.ht.get k).center
      let e : Evt := { ang := c, fwd := fwd (c - s.est.lastHallCenter), src := .hall }
      .done (((s.onCyc fun x => { x with hallEvt := some e }).onCtl fun x => { x with lastHall := h }).onEst fun x =>
        { x with lastHallCenter := c })
    else .done s

/-- One axis of the flux integral: `clampf(flux + (v - R*i)*T, -lam, lam)` (R222). `site` numbers the free values of its
four operations. -/
def fluxAxis (s : State) (site : Nat) (flux v i : Word) (N : Num := F32.binary32) : Word :=
  let ri := N.mul (s.nan site) s.mot.rPhase i
  let emf := N.sub (s.nan (site + 1)) v ri
  let step := N.mul (s.nan (site + 2)) emf s.ctl.tPwm
  F32.clampf (N.add (s.nan (site + 3)) flux step) (N.neg s.mot.fluxLink) s.mot.fluxLink N

/-- FLUX, the back-EMF flux integrator and zero-crossing detector (R222, R223). DEDUCED (log entry 35; unsafe): R222's corner
case and 90_conflicts.md C15 say that with FLUX_LINK = 0.0 no crossing ever occurs, its pseudocode makes an event where
FLUX_SIGN is 0 as FLUX_LINK becomes 0.0, and where an integral is a NaN; the pseudocode is followed. -/
def uopFlux (s : State) (N : Num := F32.binary32) : State :=
  let fa := fluxAxis s 0 s.est.fluxA s.foc.vAlpha s.foc.iAlpha N
  let fb := fluxAxis s 4 s.est.fluxB s.foc.vBeta s.foc.iBeta N
  let sgn := fluxSignOf (s.nan 8) fa fb N
  let crossing : Bool := sgn != s.ctl.status.fluxSign && decide (Config.fluxBlank ≤ s.est.fluxBlk.toNat)
  let ang : Half := if F32.ge fa (F32.zero false) N then Config.fluxAng45 else Config.fluxAng225
  let e : Evt := { ang := ang, fwd := (ang == Config.fluxAng45) == sgn, src := .flux }
  (((s.onEst fun x =>
    { x with fluxA := fa, fluxB := fb, fluxBlk := if crossing then 0 else satInc x.fluxBlk }).onStatus fun t =>
    { t with fluxSign := sgn }).onCyc fun x => { x with fluxEvt := if crossing then some e else x.fluxEvt }).drawn

/-- The signed angle difference an event feeds to the step filter (R225). -/
def eventDelta (e : Evt) (lastEvt : Half) : Int :=
  let d := e.ang - lastEvt
  if d = 0 then 0 else if e.fwd then d.toNat else d.toNat - 65536

/-- One exponential smoothing step `x + a * (y - x)` (R225), as binary32 rounds it (log entry 33). -/
def smooth (s : State) (site : Nat) (a x y : Word) (N : Num := F32.binary32) : Word :=
  N.add (s.nan (site + 2)) x (N.mul (s.nan (site + 1)) a (N.sub (s.nan site) y x))

/-- The event part of TRACK (R225): `cnt` is the incremented cycle count. DEDUCED (log entry 32; unsafe): R225's corner case
says that a NaN error persists in TRK_ERR until RESET, its pseudocode overwrites TRK_ERR at every event; the pseudocode is
followed, so an event clears a NaN TRK_ERR. -/
def trackEvent (e : Evt) (cnt : Word) (s : State) (N : Num := F32.binary32) : State :=
  let a := s.est.trkAlpha
  let n := N.ofNat cnt.toNat
  let stepRate := N.div (s.nan 0) (N.ofInt (eventDelta e s.est.lastEvt)) n
  let eventRate := N.div (s.nan 4) F32.one n
  let seen := s.ctl.status.evtSeen
  (s.onEst fun x =>
    { x with
      trkStep := if seen then smooth s 1 a x.trkStep stepRate N else x.trkStep
      trkInvper := if seen then smooth s 5 a x.trkInvper eventRate N else x.trkInvper
      trkErr := N.ofInt (s16 (e.ang - x.theta))
      lastEvt := e.ang
      trkCnt := 0 }).onStatus fun t => { t with evtSeen := true, lastSrc := e.src, dir := e.fwd }

/-- The advance part of TRACK: the step plus the error correction moves THETA, and the error decays (R225). -/
def trackAdvance (s : State) (N : Num := F32.binary32) : State :=
  let corr := N.mul (s.nan 8) s.est.trkKerr s.est.trkErr
  s.onEst fun x =>
    { x with
      theta := x.theta + toAngleStep (N.add (s.nan 9) x.trkStep corr) N
      trkErr := N.sub (s.nan 10) x.trkErr corr }

/-- The timeout part of TRACK: past 3000 cycles without an event THETA is forced (R225, R226). -/
def trackTimeout (s : State) : State :=
  if Config.trkTimeout < s.est.trkCnt.toNat then
    s.onEst fun x => { x with theta := x.lastHallCenter, trkCnt := x.trkRestart }
  else s

/-- TRACK, the angle-tracking observer filter (R224, R225). It consumes the cycle's events. -/
def uopTrack (s : State) (N : Num := F32.binary32) : State :=
  let cnt := satInc s.est.trkCnt
  let counted :=
    match s.eventIn with
    | some e => trackEvent e cnt s N
    | none => s.onEst fun x => { x with trkCnt := cnt }
  ((trackTimeout (trackAdvance counted N)).onCyc fun x => { x with hallEvt := none, fluxEvt := none }).drawn

/-! ## The meanings -/

/-- HALL (R220). -/
def execHall (s : State) : Host.Outcome State Fault Refusal := .next (uopHall s).state

/-- FLUX (R222). -/
def execFlux (s : State) : Host.Outcome State Fault Refusal := .next (uopFlux s)

/-- TRACK (R225). -/
def execTrack (s : State) : Host.Outcome State Fault Refusal := .next (uopTrack s)

end Sys2Proof.Machine
end

