-- ==== Sys2Proof/Machine/Params.lean ====
section
/-! DEFINITION. The parameters of the model (00_scope.md R12): NUM, SINTAB and UNSPEC_STATE_ACTION, and their defaults. The
meanings take them as arguments whose default values are these. -/

namespace Sys2Proof.Machine

/-- The model's parameters (00_scope.md R12). -/
structure Params where
  /-- NUM: the arithmetic on binary32 patterns. -/
  num : Num
  /-- SINTAB: the sine table's entry k. -/
  sintab : Fin 256 → Word
  /-- UNSPEC_STATE_ACTION: what a cycle does, after the common sequence, in a state the source names without a per-cycle
  action; `none` refuses the cycle (44_state_machine.md R301; log entry 10). -/
  unspecStateAction : OpState → SubPhase → Option (State → UopOut)

/-- The parameters at the defaults the spec gives them: binary32, the sine table of 10_state.md R90, and refuse
(00_scope.md R12). -/
abbrev Params.default : Params where
  num := F32.binary32
  sintab := Machine.sintab
  unspecStateAction := fun _ _ => none

end Sys2Proof.Machine
end

