-- ==== Sys2Proof/Machine/Pipeline.lean ====
section
/-! DEFINITION. The signal pipeline (40_signal_pipeline.md): SAMPLE, CONVERT, WARMUP, CLARKSEL, CLARK3, CLARK2_XA,
CLARK2_XB, CLARK2_XC, PARK, SINCOS. None raises a fault (R160). -/

namespace Sys2Proof.Machine

/-- SAMPLE latches the input ports (R161); HW_BRK is only ever set (60_exceptions.md R410). -/
def uopSample (s : State) : State :=
  let p := s.portsIn
  ((s.onPipe fun x => { x with raw := p.raw }).onCtl fun c =>
    { c with
      hallRaw := p.hall
      probe := p.probe
      status := { c.status with hwBrk := c.status.hwBrk || p.hwbrk == 1 } }).drawn

/-- One channel's physical value, `GAIN * (f32(RAW) - OFFSET)` (R162). -/
def physValue (s : State) (ch : Fin 4) (N : Num := F32.binary32) : Word :=
  N.mul (s.nan (2 * ch.val + 1)) (s.pipe.gain.get ch)
    (N.sub (s.nan (2 * ch.val)) (N.ofNat (s.pipe.raw.get ch).toNat) (s.pipe.offset.get ch))

/-- CONVERT turns raw samples into physical values (R162). -/
def uopConvert (s : State) (N : Num := F32.binary32) : State :=
  (s.onPipe fun x => { x with phys := Chan.ofFn fun ch => physValue s ch N }).drawn

/-- WARMUP accumulates the running-average offset of the current channels (R163). -/
def uopWarmup (s : State) (N : Num := F32.binary32) : State :=
  if s.pipe.warmupCnt.toNat < Config.warmupN then
    let sum : Phase Word :=
      ⟨s.pipe.wsum.a + s.pipe.raw.ia.setWidth 32, s.pipe.wsum.b + s.pipe.raw.ib.setWidth 32,
        s.pipe.wsum.c + s.pipe.raw.ic.setWidth 32⟩
    let n := s.pipe.warmupCnt.toNat + 1
    let avg (site : Nat) (x : Word) : Word := N.div (s.nan site) (N.ofNat x.toNat) (N.ofNat n)
    ((s.onPipe fun x =>
      { x with
        wsum := sum
        warmupCnt := BitVec.ofNat 16 n
        offset := ⟨avg 0 sum.a, avg 1 sum.b, avg 2 sum.c, x.offset.vbus⟩ }).onStatus fun t =>
      { t with warmupDone := t.warmupDone || n == Config.warmupN }).drawn
  else s

/-- Write the stationary-frame current. -/
def setIab (alpha beta : Word) (s : State) : State :=
  (s.onFoc fun f => { f with iAlpha := alpha, iBeta := beta }).drawn

/-- CLARK3: the three-phase, amplitude-invariant Clark transform (R165). The sign of a zero result follows the pseudocode
(log entry 33). -/
def uopClark3 (s : State) (N : Num := F32.binary32) : State :=
  let ia := s.pipe.phys.ia
  let ib := s.pipe.phys.ib
  let ic := s.pipe.phys.ic
  let t := N.sub (s.nan 1) ia (N.mul (s.nan 0) F32.half ib)
  let t := N.sub (s.nan 3) t (N.mul (s.nan 2) F32.half ic)
  setIab (N.mul (s.nan 4) F32.c23 t) (N.mul (s.nan 6) F32.c1s3 (N.sub (s.nan 5) ib ic)) s

/-- CLARK2_XA: phase a excluded, taken as `-Ib - Ic` (R166). -/
def uopClark2Xa (s : State) (N : Num := F32.binary32) : State :=
  let ib := s.pipe.phys.ib
  let ic := s.pipe.phys.ic
  setIab (N.sub (s.nan 0) (N.neg ib) ic) (N.mul (s.nan 2) F32.c1s3 (N.sub (s.nan 1) ib ic)) s

/-- CLARK2_XB: phase b excluded, taken as `-Ia - Ic` (R167). -/
def uopClark2Xb (s : State) (N : Num := F32.binary32) : State :=
  let ia := s.pipe.phys.ia
  let ic := s.pipe.phys.ic
  setIab ia
    (N.neg (N.mul (s.nan 2) F32.c1s3 (N.add (s.nan 1) ia (N.mul (s.nan 0) F32.two ic)))) s

/-- CLARK2_XC: phase c excluded, taken as `-Ia - Ib` (R168). -/
def uopClark2Xc (s : State) (N : Num := F32.binary32) : State :=
  let ia := s.pipe.phys.ia
  let ib := s.pipe.phys.ib
  setIab ia (N.mul (s.nan 2) F32.c1s3 (N.add (s.nan 1) ia (N.mul (s.nan 0) F32.two ib))) s

/-- The Clark transform a variant names (R164). -/
def uopClark (var : ClarkVar) (s : State) (N : Num := F32.binary32) : State :=
  match var with
  | .threePhase => uopClark3 s N
  | .excludeA => uopClark2Xa s N
  | .excludeB => uopClark2Xb s N
  | .excludeC => uopClark2Xc s N

/-- CLARKSEL chooses the variant from the previous period's compare values and executes it (R164). -/
def uopClarksel (s : State) (N : Num := F32.binary32) : State :=
  let var := clarkChoice s.foc.ccr s.ctl.clarkSat
  uopClark var (s.onStatus fun t => { t with clarkVar := var }) N

/-- PARK rotates the stationary-frame current by the stored sine and cosine (R169). An infinite current gives a NaN where it
meets a zero sine or cosine (log entry 33). -/
def uopPark (s : State) (N : Num := F32.binary32) : State :=
  let f := s.foc
  let d := N.add (s.nan 2) (N.mul (s.nan 0) f.cos f.iAlpha) (N.mul (s.nan 1) f.sin f.iBeta)
  let q := N.sub (s.nan 5) (N.mul (s.nan 3) f.cos f.iBeta) (N.mul (s.nan 4) f.sin f.iAlpha)
  (s.onFoc fun f => { f with iD := d, iQ := q }).drawn

/-- The sine table index of an angle: its bits [15:8] (R170). -/
def sinIndex (theta : Half) : Fin 256 := (theta.extractLsb' 8 8).toFin

/-- The cosine's index, a quarter of the table ahead (R170). -/
def cosIndex (theta : Half) : Fin 256 := Fin.ofNat Config.sintabN ((sinIndex theta).val + Config.cosOffset)

/-- SINCOS looks up the sine and cosine of THETA (R170). -/
def uopSincos (s : State) (tab : Fin 256 → Word := sintab) : State :=
  s.onFoc fun f => { f with sin := tab (sinIndex s.est.theta), cos := tab (cosIndex s.est.theta) }

/-! ## The meanings -/

/-- SAMPLE (R161). -/
def execSample (s : State) : Host.Outcome State Fault Refusal := .next (uopSample s)

/-- CONVERT (R162). -/
def execConvert (s : State) : Host.Outcome State Fault Refusal := .next (uopConvert s)

/-- WARMUP (R163). -/
def execWarmup (s : State) : Host.Outcome State Fault Refusal := .next (uopWarmup s)

/-- CLARKSEL (R164). -/
def execClarksel (s : State) : Host.Outcome State Fault Refusal := .next (uopClarksel s)

/-- CLARK3 (R165). -/
def execClark3 (s : State) : Host.Outcome State Fault Refusal := .next (uopClark3 s)

/-- CLARK2_XA (R166). -/
def execClark2Xa (s : State) : Host.Outcome State Fault Refusal := .next (uopClark2Xa s)

/-- CLARK2_XB (R167). -/
def execClark2Xb (s : State) : Host.Outcome State Fault Refusal := .next (uopClark2Xb s)

/-- CLARK2_XC (R168). -/
def execClark2Xc (s : State) : Host.Outcome State Fault Refusal := .next (uopClark2Xc s)

/-- PARK (R169). -/
def execPark (s : State) : Host.Outcome State Fault Refusal := .next (uopPark s)

/-- SINCOS (R170). -/
def execSincos (s : State) : Host.Outcome State Fault Refusal := .next (uopSincos s)

end Sys2Proof.Machine
end

