-- ==== Sys2Proof/Machine/Protection.lean ====
section
/-! DEFINITION. The protection supervisor (41_protection.md): PROTECT. -/

namespace Sys2Proof.Machine

/-- Scale both current references by PROT_SCALE (R201). -/
def scaleReferences (s : State) (N : Num := F32.binary32) : State :=
  (s.onFoc fun f =>
    { f with
      idReq := N.mul (s.nan 0) f.idReq Config.protScale
      iqReq := N.mul (s.nan 1) f.iqReq Config.protScale }).drawn

/-- The OverLimit snapshot: FRAW takes this cycle's raw samples (R202). -/
def snapshotRaw (s : State) : State := s.onCtl fun c => { c with fraw := s.pipe.raw }

/-- PROTECT, the threshold monitor (R201 to R203). -/
def uopProtect (s : State) (N : Num := F32.binary32) : UopOut :=
  if s.violation then
    let c := satInc s.ctl.violCnt
    let t := (scaleReferences s N).onCtl fun x => { x with violCnt := c }
    if Config.violTrip ≤ c.toNat ∧ s.ctl.status.faultLatched = false then
      .raised (raiseFault .overLimit (snapshotRaw t))
    else .done t
  else .done (s.onCtl fun x => { x with violCnt := 0 })

/-- PROTECT (R201). -/
def execProtect (s : State) : Host.Outcome State Fault Refusal := .next (uopProtect s).state

end Sys2Proof.Machine
end

