-- ==== Sys2Proof/Machine/StateMachine.lean ====
section
/-! DEFINITION. The control state machine's transition uops (44_state_machine.md): FSM, DETECT. -/

namespace Sys2Proof.Machine

/-- Enter HallRun on the host's word that persisted parameters are valid (R304, R307, R308). -/
def enterHallRun (s : State) : State := (s.onStatus fun t => { t with htValid := true }).goto .hallRun

/-- Enter resistance and inductance identification with its registers cleared (R302, R304). -/
def enterIdentification (s : State) : State :=
  ((s.onCom fun x =>
    { x with
      measCnt := 0
      measDuty := 0
      d1 := 0
      d2 := 0
      measI1 := F32.zero false
      measI2 := F32.zero false
      measIh := F32.zero false
      measIl := F32.zero false }).onStatus fun t => { t with subphase := .rlP1 }).goto .measuring

/-- Enter Hall-table learning with its accumulators cleared (R305). -/
def enterHallLearning (s : State) : State :=
  ((s.onCom fun x => { x with measCnt := 0, hl := Sector.all ⟨0, 0, 0⟩ }).onStatus fun t =>
    { t with subphase := .hlAlign }).goto .measuring

/-- FSM, the transition check of Idle and Measuring (R302, R304, R307). DEDUCED (log entry 31; unsafe): it sees the
WARMUP_DONE that this cycle's WARMUP set, so with RUN written early Idle is left in the 1000th cycle, where
70_reset_and_hazards.md R455 says in the cycle after. -/
def uopFsm (s : State) : State :=
  match s.ctl.status.opstate with
  | .idle =>
    if s.ctl.status.warmupDone ∧ s.ctl.run then
      if s.ctl.paramsValid then enterHallRun s else enterIdentification s
    else s
  | .measuring => if s.ctl.paramsValid then enterHallRun s else s
  | _ => s

/-- DETECT, the Hall presence probe decision (R305). -/
def uopDetect (s : State) : UopOut :=
  let p := s.ctl.probe.toNat
  if 8 ≤ p then .raised (raiseFault .genericHallFault s)
  else if p = 6 ∨ p = 7 then .done (s.goto .sensorlessRun)
  else if s.ctl.status.htValid then .done (s.goto .hallRun)
  else .done (enterHallLearning s)

/-- FSM (R302). -/
def execFsm (s : State) : Host.Outcome State Fault Refusal := .next (uopFsm s)

/-- DETECT (R305). -/
def execDetect (s : State) : Host.Outcome State Fault Refusal := .next (uopDetect s).state

end Sys2Proof.Machine
end

