-- ==== Sys2Proof/Machine/Uop.lean ====
section
/-! DEFINITION. The micro-operations as a type of their own, for the sequences of a fast cycle (30_encoding.md R143,
44_state_machine.md R292). -/

namespace Sys2Proof.Machine

/-- The thirty assigned micro-operations (R143). -/
inductive Uop where
  | sample | convert | warmup | clark3 | clark2Xa | clark2Xb | clark2Xc | park | protect
  | hall | flux | track | sincos | pi | invpark | invclark | svpwm | pwmout
  | fsm | measRl | gaincalc | hlAlign | hlFwd | hlRev | hlFinish | inject
  | brk | outoff | detect | clarksel
  deriving DecidableEq, Repr

/-- The instruction that stands for a micro-operation's row of the opcode table. -/
def uopInstr : Uop → Instr
  | .sample => .sample | .convert => .convert | .warmup => .warmup
  | .clark3 => .clark3 | .clark2Xa => .clark2Xa | .clark2Xb => .clark2Xb | .clark2Xc => .clark2Xc
  | .park => .park | .protect => .protect | .hall => .hall | .flux => .flux | .track => .track
  | .sincos => .sincos | .pi => .pi | .invpark => .invpark | .invclark => .invclark
  | .svpwm => .svpwm | .pwmout => .pwmout | .fsm => .fsm | .measRl => .measRl | .gaincalc => .gaincalc
  | .hlAlign => .hlAlign | .hlFwd => .hlFwd | .hlRev => .hlRev | .hlFinish => .hlFinish
  | .inject => .inject | .brk => .brk | .outoff => .outoff | .detect => .detect | .clarksel => .clarksel

end Sys2Proof.Machine
end

