-- ==== Sys2Proof/Machine/Cycle.lean ====
section
/-! DEFINITION. The fast cycle (44_state_machine.md R290 to R303): the common sequence, the sequence of the state, a
fault inside a cycle, and the replacement by OUTOFF when FSM changes the state. -/

namespace Sys2Proof.Machine

/-- Run one micro-operation. -/
def runUop (u : Uop) (s : State) (P : Params := Params.default) : UopOut :=
  match u with
  | .sample => .done (uopSample s)
  | .convert => .done (uopConvert s P.num)
  | .warmup => .done (uopWarmup s P.num)
  | .clark3 => .done (uopClark3 s P.num)
  | .clark2Xa => .done (uopClark2Xa s P.num)
  | .clark2Xb => .done (uopClark2Xb s P.num)
  | .clark2Xc => .done (uopClark2Xc s P.num)
  | .park => .done (uopPark s P.num)
  | .protect => uopProtect s P.num
  | .hall => uopHall s
  | .flux => .done (uopFlux s P.num)
  | .track => .done (uopTrack s P.num)
  | .sincos => .done (uopSincos s P.sintab)
  | .pi => .done (uopPi s P.num)
  | .invpark => .done (uopInvpark s P.num)
  | .invclark => .done (uopInvclark s P.num)
  | .svpwm => .done (uopSvpwm s P.num)
  | .pwmout => .done (uopPwmout s)
  | .fsm => .done (uopFsm s)
  | .measRl => .done (uopMeasRl s P.num)
  | .gaincalc => .done (uopGaincalc s P.num)
  | .hlAlign => .done (uopHlAlign s)
  | .hlFwd => .done (uopHlFwd s)
  | .hlRev => .done (uopHlRev s)
  | .hlFinish => .done (uopHlFinish s)
  | .inject => .done (uopInject s)
  | .brk => .done (uopBreak s)
  | .outoff => .done (uopOutoff s)
  | .detect => uopDetect s
  | .clarksel => .done (uopClarksel s P.num)

/-- After a micro-operation the selected sequence goes on, but for one case: when FSM changes OPSTATE, OUTOFF replaces
the rest (R303). -/
def restAfter (u : Uop) (before after : OpState) (rest : List Uop) : List Uop :=
  if u = .fsm ∧ after ≠ before then [.outoff] else rest

/-- Run a sequence with a bound on its length: a uop that raises ends it (R293; BREAK is the raise's own last part,
60_exceptions.md R402). `fuel` is never below the length of what is left to run. -/
def runFor (fuel : Nat) (us : List Uop) (s : State) (P : Params := Params.default) : UopOut :=
  match fuel, us with
  | _, [] => .done s
  | 0, _ :: _ => .done s
  | fuel + 1, u :: us =>
    match runUop u s P with
    | .raised t => .raised t
    | .done t => runFor fuel (restAfter u s.ctl.status.opstate t.ctl.status.opstate us) t P

/-- Run a sequence. A replacement by OUTOFF is one uop long, so the length plus one bounds the run. -/
def runSeq (us : List Uop) (s : State) (P : Params := Params.default) : UopOut := runFor (us.length + 1) us s P

/-- The common sequence that begins every executing cycle (R291); CLARKSEL runs the Clark variant it selects. WARMUP comes
before the FSM of the same cycle (log entry 31). -/
def commonSeq (s : State) : List Uop :=
  if s.ctl.status.opstate = .idle ∧ s.ctl.status.warmupDone = false then
    [.sample, .convert, .warmup, .clarksel, .park, .protect]
  else [.sample, .convert, .clarksel, .park, .protect]

/-- The chain from the rotor-frame voltage to the compare values (R292). -/
def driveSeq : List Uop := [.invpark, .invclark, .svpwm, .pwmout]

/-- The sequence a state selects (R292, R294 to R300); a placeholder or reserved state selects none (R301). -/
def stateSeq (st : OpState) (sub : SubPhase) : Option (List Uop) :=
  match st with
  | .idle => some [.fsm, .outoff]
  | .detecting => some [.detect, .outoff]
  | .measuring =>
    match sub with
    | .rlP1 | .rlP2 | .rlL => some [.fsm, .measRl]
    | .hlAlign => some ([.fsm, .hall, .hlAlign, .sincos, .inject] ++ driveSeq)
    | .hlFwd => some ([.fsm, .hall, .hlFwd, .sincos, .inject] ++ driveSeq)
    | .hlRev => some ([.fsm, .hall, .hlRev, .sincos, .inject] ++ driveSeq)
    | .reserved6 | .reserved7 => none
  | .hallRun => some ([.hall, .flux, .track, .sincos, .pi] ++ driveSeq)
  | .sensorlessRun => some ([.flux, .track, .sincos, .pi] ++ driveSeq)
  | .error => some [.brk]
  | .hallNearStationary | .openLoopStartup | .openLoopTransition | .align | .test | .recovering => none
  | .reserved12 | .reserved13 | .reserved14 | .reserved15 => none

/-- The sequence of the state as it stands. -/
def State.seq (s : State) : Option (List Uop) := stateSeq s.ctl.status.opstate s.ctl.status.subphase

/-- What a cycle does after the common sequence: run the state's sequence, or in a placeholder or reserved state what
UNSPEC_STATE_ACTION says (R292, R301). -/
def stateAction (s : State) (P : Params := Params.default) : Option (State → UopOut) :=
  match s.seq with
  | some us => some fun t => runSeq us t P
  | none => P.unspecStateAction s.ctl.status.opstate s.ctl.status.subphase

/-- A fast cycle (R290): refused before any uop runs in a placeholder or reserved state without an action; otherwise the
common sequence, then what OPSTATE and SUBPHASE select as they stand after it, unless the common sequence raised a
fault. -/
def fastCycle (s : State) (P : Params := Params.default) : Option State :=
  match stateAction s P with
  | none => none
  | some _ =>
    match runSeq (commonSeq s) s P with
    | .raised t => some t
    | .done t =>
      match stateAction t P with
      | none => none
      | some act => some (act t).state

end Sys2Proof.Machine
end

