-- ==== Sys2Proof/Machine/HostPort.lean ====
section
/-! DEFINITION. The host's transactions and commands (46_host_interface.md): RD, WR, TICK, RESET, FAULT_RESET,
CLEAR_DIRTY. -/

namespace Sys2Proof.Machine

/-- RD (R370). -/
def execRd (addr : BitVec 12) (s : State) : Host.Outcome State Fault Refusal :=
  afterReset s fun s => .next (hostRead addr s)

/-- WR (R371). -/
def execWr (addr : BitVec 12) (data : Word) (s : State) : Host.Outcome State Fault Refusal :=
  afterReset s fun s => .next (hostWrite addr data s)

/-- Present the input ports of a TICK: nothing else is cycle-local yet (R372, 70_reset_and_hazards.md R450). -/
def presentPorts (p : Ports) (s : State) : State := s.onCyc fun _ => { Cyc.empty with ports := some p }

/-- The end of a TICK: no cycle-local value survives, and the response is the output ports (R372, 70_reset_and_hazards.md
R450). -/
def endTick (s : State) : State :=
  (s.onCyc fun _ => Cyc.empty).respond (.outputs s.outCcr s.outEn s.outSwbrk)

/-- Run one TICK with the given ports (R372). -/
def tickWith (p : Ports) (s : State) (P : Params := Params.default) : Host.Outcome State Fault Refusal :=
  match fastCycle (presentPorts p s) P with
  | some t => .next (endTick t)
  | none => .refused .placeholderState

/-- TICK (R372). -/
def execTick (hwbrk : BitVec 1) (probe : BitVec 4) (hall : BitVec 3) (ia ib ic vbus : Half) (s : State) :
    Host.Outcome State Fault Refusal :=
  afterReset s fun s => tickWith { raw := ⟨ia, ib, ic, vbus⟩, hall := hall, probe := probe, hwbrk := hwbrk } s

/-- RESET (R373). -/
def execReset (s : State) : Host.Outcome State Fault Refusal := .next (resetBlock s)

/-- FAULT_RESET: a WR to CMD with bit 0 set; CLEAR_DIRTY follows when bit 1 is set too (R376, R378). -/
def execFaultReset (clr : BitVec 1) (_ignored : BitVec 30) (s : State) : Host.Outcome State Fault Refusal :=
  afterReset s fun s =>
    let s := leaveError s
    .next ((if clr = 1 then clearDirtyFlag s else s).respond .ok)

/-- CLEAR_DIRTY: a WR to CMD with bit 1 set and bit 0 clear (R377). -/
def execClearDirty (_ignored : BitVec 30) (s : State) : Host.Outcome State Fault Refusal :=
  afterReset s fun s => .next ((clearDirtyFlag s).respond .ok)

end Sys2Proof.Machine
end

