-- ==== Sys2Proof/Machine/Dispatch.lean ====
section
/-! DEFINITION. The dispatch: one arm per instruction. -/

namespace Sys2Proof.Machine

def exec (i : Instr) (s : State) : Host.Outcome State Fault Refusal :=
  match i with
  | .rd addr => Sys2Proof.Machine.execRd addr s
  | .wr addr data => Sys2Proof.Machine.execWr addr data s
  | .tick hwbrk probe hall ia ib ic vbus => Sys2Proof.Machine.execTick hwbrk probe hall ia ib ic vbus s
  | .reset => Sys2Proof.Machine.execReset s
  | .faultReset clr ign => Sys2Proof.Machine.execFaultReset clr ign s
  | .clearDirty ign => Sys2Proof.Machine.execClearDirty ign s
  | .sample => Sys2Proof.Machine.execSample s
  | .convert => Sys2Proof.Machine.execConvert s
  | .warmup => Sys2Proof.Machine.execWarmup s
  | .clark3 => Sys2Proof.Machine.execClark3 s
  | .clark2Xa => Sys2Proof.Machine.execClark2Xa s
  | .clark2Xb => Sys2Proof.Machine.execClark2Xb s
  | .clark2Xc => Sys2Proof.Machine.execClark2Xc s
  | .park => Sys2Proof.Machine.execPark s
  | .protect => Sys2Proof.Machine.execProtect s
  | .hall => Sys2Proof.Machine.execHall s
  | .flux => Sys2Proof.Machine.execFlux s
  | .track => Sys2Proof.Machine.execTrack s
  | .sincos => Sys2Proof.Machine.execSincos s
  | .pi => Sys2Proof.Machine.execPi s
  | .invpark => Sys2Proof.Machine.execInvpark s
  | .invclark => Sys2Proof.Machine.execInvclark s
  | .svpwm => Sys2Proof.Machine.execSvpwm s
  | .pwmout => Sys2Proof.Machine.execPwmout s
  | .fsm => Sys2Proof.Machine.execFsm s
  | .measRl => Sys2Proof.Machine.execMeasRl s
  | .gaincalc => Sys2Proof.Machine.execGaincalc s
  | .hlAlign => Sys2Proof.Machine.execHlAlign s
  | .hlFwd => Sys2Proof.Machine.execHlFwd s
  | .hlRev => Sys2Proof.Machine.execHlRev s
  | .hlFinish => Sys2Proof.Machine.execHlFinish s
  | .inject => Sys2Proof.Machine.execInject s
  | .brk => Sys2Proof.Machine.execBrk s
  | .outoff => Sys2Proof.Machine.execOutoff s
  | .detect => Sys2Proof.Machine.execDetect s
  | .clarksel => Sys2Proof.Machine.execClarksel s

end Sys2Proof.Machine
end

