-- ==== Sys2Proof/Machine/Step.lean ====
section
/-! DEFINITION. One step: take the next instruction of the stream and run it. -/

namespace Sys2Proof.Machine

/-- One step of the block (20_memory.md R112: the history is one sequence of transactions). With no transaction
presented the block keeps all its state (60_exceptions.md R419; log entry 1). -/
def step (s : State) : Host.Outcome State Fault Refusal :=
  match fetch s.stream with
  | .run i rest => exec i { s with stream := rest }
  | .wait => .next s
  | .refuse r => .refused r

/-- The state with a table row's words presented as the next of the stream (log entry 1). -/
def State.withFetchWord (s : State) (nbits w : Nat) : State := { s with stream := tableWords nbits w ++ s.stream }

end Sys2Proof.Machine
end

