-- ==== Sys2Proof/Machine/RefHost.lean ====
section
/-! DEFINITION. The reference host (46_host_interface.md R379, R380, R385 to R392): the slow loop, the console and the
storage, written as programs of RD and WR transactions. The block does not depend on them (R380): no definition of the
block uses this file (log entry 24). -/

namespace Sys2Proof.Machine

/-- A host agent's program: it ends, reads a register and goes on with the value, or writes a register and goes on.
Between two of its transactions any other agent's transaction or a TICK may come (R374, R390). -/
inductive HostProg (α : Type) where
  | done (a : α)
  | rd (r : Reg) (k : Word → HostProg α)
  | wr (r : Reg) (v : Word) (k : HostProg α)

/-- The byte address a host uses for a register. -/
def Reg.busAddr (r : Reg) : BitVec 12 := BitVec.ofNat 12 r.addr

/-- One transaction of a host program, as the block performs it; `none` where the block refuses it. -/
def HostProg.turn {α : Type} : HostProg α → State → Option (HostProg α × State)
  | .done a, s => some (.done a, s)
  | .rd r k, s =>
    match exec (.rd r.busAddr) s with
    | .next t => some (k (r.read s), t)
    | _ => none
  | .wr r v k, s =>
    match exec (decodeWr r.busAddr v) s with
    | .next t => some (k, t)
    | _ => none

/-- A host program with no other agent's transaction between its own. -/
def HostProg.run {α : Type} : HostProg α → State → Option (α × State)
  | .done a, s => some (a, s)
  | .rd r k, s =>
    match exec (.rd r.busAddr) s with
    | .next t => (k (r.read s)).run t
    | _ => none
  | .wr r v k, s =>
    match exec (decodeWr r.busAddr v) s with
    | .next t => k.run t
    | _ => none

/-! ## The slow loop -/

/-- The host's own quantities: the throttle input, the open parameters THR_DB, THR_K, FW_K and P_MAX
(92_eei_decisions.md, Open parameters), and the voltage-to-duty gain it last computed. All are binary32. -/
structure SlowHost where
  throttle : Word
  thrDb : Word
  thrK : Word
  fwK : Word
  pMax : Word
  vabToPwm : Word
  deriving DecidableEq, Repr

/-- binary32 0.8 (R388). -/
def fieldWeakFraction : Word := 0x3F4CCCCD

/-- binary32 1.5 (R389). -/
def powerFactor : Word := 0x3FC00000

/-- The new voltage-to-duty gain for a bus voltage that is positive (R386). -/
def dutyGain (q : BitVec 23) (full vbus : Word) (N : Num := F32.binary32) : Word := N.div q (N.ofNat full.toNat) vbus

/-- The throttle's current reference, above the deadband (R387). -/
def throttleCurrent (q : Nat → BitVec 23) (h : SlowHost) (iMax : Word) (N : Num := F32.binary32) : Word :=
  F32.clampf (N.mul (q 2) h.thrK (N.sub (q 1) h.throttle h.thrDb)) (F32.zero false) iMax N

/-- The field-weakening current (R388). -/
def fieldWeakening (q : Nat → BitVec 23) (h : SlowHost) (vq vmax : Word) (N : Num := F32.binary32) : Word :=
  let thr := N.mul (q 3) fieldWeakFraction vmax
  let m := if N.lt vq (F32.zero false) then N.neg vq else vq
  if F32.gt m thr N then N.neg (N.mul (q 5) h.fwK (N.sub (q 4) m thr)) else F32.zero false

/-- The quadrature reference under the power ceiling (R389). -/
def powerLimited (q : Nat → BitVec 23) (h : SlowHost) (vd vq id iq : Word) (N : Num := F32.binary32) : Word :=
  let p := N.mul (q 9) powerFactor (N.add (q 8) (N.mul (q 6) vd id) (N.mul (q 7) vq iq))
  if F32.gt p h.pMax N then N.mul (q 11) iq (N.div (q 10) h.pMax p) else iq

/-- The writes that end a slow-loop step (R390). -/
def slowWrites (h : SlowHost) (id iq : Word) : HostProg SlowHost :=
  .wr .vabToPwm h.vabToPwm (.wr .idReq id (.wr .iqReq iq (.done h)))

/-- Field weakening, the power ceiling and the writes (R388 to R390), for a throttle reference `iq`. -/
def slowTail (q : Nat → BitVec 23) (h : SlowHost) (iq : Word) (N : Num := F32.binary32) : HostProg SlowHost :=
  .rd .vq fun vq => .rd .vqMax fun vmax =>
    let id := fieldWeakening q h vq vmax N
    .rd .vd fun vd => .rd .vq fun vq2 => slowWrites h id (powerLimited q h vd vq2 id iq N)

/-- The throttle part and what follows it (R387 to R390). -/
def slowThrottle (q : Nat → BitVec 23) (h : SlowHost) (N : Num := F32.binary32) : HostProg SlowHost :=
  if F32.gt h.throttle h.thrDb N then .rd .iMax fun iMax => slowTail q h (throttleCurrent q h iMax N) N
  else slowTail q h (F32.zero false) N

/-- One slow-loop step (R385 to R390). `q` gives the sign and payload of each NaN the host may compute (R20). -/
def slowLoop (q : Nat → BitVec 23) (h : SlowHost) (N : Num := F32.binary32) : HostProg SlowHost :=
  .rd (.phys 3) fun vbus =>
    if F32.gt vbus (F32.zero false) N then
      .rd .pwmFull fun full => slowThrottle q { h with vabToPwm := dutyGain (q 0) full vbus N } N
    else slowThrottle q h N

/-! ## The console -/

/-- The console reads a register (R391). -/
def consoleRead (r : Reg) : HostProg Word := .rd r .done

/-- The console sets the tracked angle (R391). -/
def consoleSetAngle (v : Word) : HostProg Unit := .wr .theta v (.done ())

/-- The console sets the injection voltage (R391). -/
def consoleSetInjection (v : Word) : HostProg Unit := .wr .vInj v (.done ())

/-! ## The storage -/

/-- The 15 registers of the stored block, in the order they are read (R392). -/
def storedRegs : List Reg :=
  List.flatten
    [[.htSe 0, .htSe 1, .htSe 2, .htSe 3, .htSe 4, .htSe 5],
     [.htCw 0, .htCw 1, .htCw 2, .htCw 3, .htCw 4, .htCw 5],
     [.rPhase, .lPhase, .fluxLink]]

/-- Read registers in order, after the values already read. -/
def readAll : List Reg → List Word → HostProg (Option (List Word))
  | [], vs => .done (some vs)
  | r :: rs, vs => .rd r fun v => readAll rs (vs ++ [v])

/-- Write registers in order, then go on. -/
def writeAll {α : Type} : List (Reg × Word) → HostProg α → HostProg α
  | [], k => k
  | (r, v) :: rest, k => .wr r v (writeAll rest k)

/-- Save: when DIRTY is set, clear it and then read the block; otherwise there is nothing to store (R392). DEDUCED (log entry
24; unsafe): R380's storage row says to clear DIRTY only after saving, R392 and R377 say to clear it before the 15 reads;
R392's order is followed. -/
def storageSave : HostProg (Option (List Word)) :=
  .rd .status fun st => if st.getLsbD 13 then .wr .cmd 2 (readAll storedRegs []) else .done none

/-- Load: write the block's registers, then CTRL with PARAMS_VALID = 1 and RUN as wanted (R392, R304). -/
def storageLoad (block : List Word) (run : Bool) : HostProg Unit :=
  writeAll (storedRegs.zip block) (.wr .ctrl (if run then 3 else 2) (.done ()))

end Sys2Proof.Machine
end

