-- ==== Sys2Proof/Safety.lean ====
section
/-! DEFINITION. What claims about the block are stated in: frames, executing states, the allowed transitions, and the
invariant of a run made of transactions. -/

namespace Sys2Proof.Machine

/-! ## Frames -/

/-- Every register of the map but those listed reads the same in `t` as in `s`. -/
def RegsFixedBut (ws : List Reg) (s t : State) : Prop := ∀ r : Reg, r ∉ ws → Reg.read r t = Reg.read r s

/-- The run's own records are the same: the transactions still to come, the responses given, and that a RESET came. -/
def RunFixed (s t : State) : Prop :=
  t.resetSeen = s.resetSeen ∧ t.stream = s.stream ∧ t.responses = s.responses

/-- The frame of a micro-operation that writes the registers `ws` and no cycle-local value. Only the model's counter of
free values may differ beside them. -/
def UopFrame (ws : List Reg) (s t : State) : Prop := RegsFixedBut ws s t ∧ t.cyc = s.cyc ∧ RunFixed s t

/-- The frame of a host transaction that writes the registers `ws` and answers `resp`. -/
def HostFrame (ws : List Reg) (resp : Response) (s t : State) : Prop :=
  RegsFixedBut ws s t ∧ t.cyc = s.cyc ∧ t.resetSeen = s.resetSeen ∧ t.stream = s.stream ∧
    t.responses = s.responses ++ [resp]

/-- Every register of the map. -/
def Reg.all : List Reg :=
  regMap.flatMap fun row => (List.range row.count).map row.name

/-- What taking fault `code` leaves of the fault fields and the outputs (60_exceptions.md R402, R411; 43_controller.md
R266). -/
structure EntersError (code : FaultCode) (s t : State) : Prop where
  status : t.ctl.status = { s.ctl.status with opstate := .error, faultLatched := true, swBrk := true }
  code : t.ctl.code = if s.ctl.status.faultLatched then s.ctl.code else code
  off : t.foc.phaseEn = Phase.all false

/-- The value the "reset" column of the map gives a register (10_state.md R31, R90; 70_reset_and_hazards.md R450). -/
def Reg.resetValue : Reg → Word
  | .id => 0x4D455343
  | .status => 0x00200000
  | .cfg => 1
  | .clarkSat | .limHi _ => 0x0000FFFF
  | .cos => 0x3F800000
  | .trkAlpha => 0x3E4CCCCD
  | .trkKerr => 0x3E000000
  | .trkRestart => 1500
  | .fluxBlk => 255
  | .iTgt1 => 0x40800000
  | .iTgt2 => 0x41400000
  | .iBand => 0x3F000000
  | .measK => 0x3A83126F
  | .measT1 => 5000
  | .measT2 => 10000
  | .measT3 => 65000
  | .lFloor => 0x358637BD
  | .alignT => 10000
  | .sweepStep => 1
  | .ctrlBw => 0x447A0000
  | .sintab k => Machine.sintab k
  | _ => 0

/-- The registers no cycle writes: the host's configuration, and the constants (10_state.md R31, 20_memory.md R115). -/
def Reg.hostOnly : List Reg :=
  List.flatten
    [[.id, .ctrl, .cmd, .cfg, .pwmFull, .clarkSat, .tPwm, .vabToPwm],
     [.gain 0, .gain 1, .gain 2, .gain 3, .offset 3],
     [.limHi 0, .limHi 1, .limHi 2, .limHi 3],
     [.limLo 0, .limLo 1, .limLo 2, .limLo 3],
     [.vdMax, .vqMax, .trkAlpha, .trkKerr, .trkRestart, .fluxLink, .iMax],
     [.iTgt1, .iTgt2, .iBand, .measK, .measT1, .measT2, .measT3],
     [.lFloor, .vInj, .alignT, .sweepStep, .ctrlBw]]

/-- The Hall-learning accumulators of the six sectors (10_state.md R83). -/
def Reg.hallAccumulators : List Reg :=
  List.flatten
    [[.hlCnt 0, .hlCnt 1, .hlCnt 2, .hlCnt 3, .hlCnt 4, .hlCnt 5],
     [.hlSum 0, .hlSum 1, .hlSum 2, .hlSum 3, .hlSum 4, .hlSum 5],
     [.hlRef 0, .hlRef 1, .hlRef 2, .hlRef 3, .hlRef 4, .hlRef 5]]

/-- The Hall table (10_state.md R76). -/
def Reg.hallTable : List Reg :=
  List.flatten
    [[.htSe 0, .htSe 1, .htSe 2, .htSe 3, .htSe 4, .htSe 5],
     [.htCw 0, .htCw 1, .htCw 2, .htCw 3, .htCw 4, .htCw 5]]

/-! ## States and transitions -/

/-- The executing states: those with a per-cycle behaviour (44_state_machine.md R292, R301). -/
def executing (st : OpState) (sub : SubPhase) : Bool :=
  match st with
  | .idle | .detecting | .hallRun | .sensorlessRun | .error => true
  | .measuring =>
    match sub with
    | .reserved6 | .reserved7 => false
    | _ => true
  | _ => false

/-- The instruction of a Clark variant (40_signal_pipeline.md R164). -/
def clarkInstr : ClarkVar → Instr
  | .threePhase => .clark3
  | .excludeA => .clark2Xa
  | .excludeB => .clark2Xb
  | .excludeC => .clark2Xc

/-- The common sequence of a cycle, as instructions (44_state_machine.md R291). CLARKSEL runs its variant itself. -/
def commonInstrs (s : State) : List Instr :=
  if s.ctl.status.opstate = .idle ∧ s.ctl.status.warmupDone = false then
    [.sample, .convert, .warmup, .clarksel, .park, .protect]
  else [.sample, .convert, .clarksel, .park, .protect]

/-- The table of a cycle's sequences, as instructions (44_state_machine.md R292). -/
def stateInstrs : OpState → SubPhase → Option (List Instr)
  | .idle, _ => some [.fsm, .outoff]
  | .detecting, _ => some [.detect, .outoff]
  | .measuring, .rlP1 | .measuring, .rlP2 | .measuring, .rlL => some [.fsm, .measRl]
  | .measuring, .hlAlign => some [.fsm, .hall, .hlAlign, .sincos, .inject, .invpark, .invclark, .svpwm, .pwmout]
  | .measuring, .hlFwd => some [.fsm, .hall, .hlFwd, .sincos, .inject, .invpark, .invclark, .svpwm, .pwmout]
  | .measuring, .hlRev => some [.fsm, .hall, .hlRev, .sincos, .inject, .invpark, .invclark, .svpwm, .pwmout]
  | .hallRun, _ => some [.hall, .flux, .track, .sincos, .pi, .invpark, .invclark, .svpwm, .pwmout]
  | .sensorlessRun, _ => some [.flux, .track, .sincos, .pi, .invpark, .invclark, .svpwm, .pwmout]
  | .error, _ => some [.brk]
  | _, _ => none

/-- A fault was latched between two states. -/
def faultBetween (s t : State) : Bool := t.ctl.status.faultLatched && !s.ctl.status.faultLatched

/-- `t` is what running a sequence of instructions one by one from `s` leaves: a fault ends the sequence
(44_state_machine.md R293), and when FSM changes OPSTATE, OUTOFF replaces the rest (R303). -/
def RunsTo : List Instr → State → State → Prop
  | [], s, t => t = s
  | i :: is, s, t =>
    ∃ m, exec i s = .next m ∧
      if faultBetween s m then t = m
      else if i = .fsm ∧ m.ctl.status.opstate ≠ s.ctl.status.opstate then exec .outoff m = .next t
      else RunsTo is m t

/-- The transitions a fast cycle makes, each row of 44_state_machine.md R312 with its trigger. Where R312 names the
sub-phase RL_L for the end of identification, R331 also ends it in RL_P1 or RL_P2 for unordered thresholds, so any of the
three is allowed. -/
def cycleMoves (probe : BitVec 4) (s t : State) : Prop :=
  let src := s.ctl.status.opstate
  let dst := t.ctl.status.opstate
  let sub := s.ctl.status.subphase
  (src = .idle ∧ dst = .hallRun ∧ t.ctl.status.warmupDone = true ∧ s.ctl.run = true ∧ s.ctl.paramsValid = true) ∨
  (src = .idle ∧ dst = .measuring ∧ t.ctl.status.warmupDone = true ∧ s.ctl.run = true ∧ s.ctl.paramsValid = false ∧
    t.ctl.status.subphase = .rlP1) ∨
  (src = .measuring ∧ dst = .hallRun ∧ s.ctl.paramsValid = true) ∨
  (src = .measuring ∧ dst = .detecting ∧ (sub = .rlP1 ∨ sub = .rlP2 ∨ sub = .rlL) ∧ t.ctl.status.dirty = true) ∨
  (src = .measuring ∧ dst = .hallRun ∧ sub = .hlRev ∧ t.ctl.status.htValid = true ∧ t.ctl.status.dirty = true) ∨
  (src = .detecting ∧ dst = .sensorlessRun ∧ (probe = 6 ∨ probe = 7)) ∨
  (src = .detecting ∧ dst = .hallRun ∧ probe.toNat < 6 ∧ s.ctl.status.htValid = true) ∨
  (src = .detecting ∧ dst = .measuring ∧ probe.toNat < 6 ∧ s.ctl.status.htValid = false ∧
    t.ctl.status.subphase = .hlAlign) ∨
  (executing src sub = true ∧ dst = .error ∧ faultBetween s t = true ∧ t.ctl.code ≠ .none)

/-- The transitions of OPSTATE a transaction `i` may make from `s` to `t` (44_state_machine.md R312). -/
def transitionAllowed (i : Instr) (s t : State) : Prop :=
  t.ctl.status.opstate = s.ctl.status.opstate ∨
  match i with
  | .reset => t.ctl.status.opstate = .idle
  | .faultReset _ _ => s.ctl.status.opstate = .error ∧ t.ctl.status.opstate = .detecting
  | .tick _ probe _ _ _ _ _ => cycleMoves probe s t
  | _ => False

/-! ## Runs of transactions -/

/-- The six transactions and commands. -/
def isTransaction : Instr → Bool
  | .rd _ | .wr _ _ | .tick _ _ _ _ _ _ _ | .reset | .faultReset _ _ | .clearDirty _ => true
  | _ => false

/-- A stream that holds transactions only: the hardware's own streams (30_encoding.md R130; a lone uop id is the
model's, log entry 3). -/
def transactionsOnly (ws : List BusWord) : Bool :=
  ws.all fun w =>
    match w with
    | .uop _ => false
    | _ => true

/-- What holds between any two transactions of a run that began with RESET. -/
structure State.Inv (s : State) : Prop where
  /-- A RESET has come (70_reset_and_hazards.md R451). -/
  resetSeen : s.resetSeen = true
  /-- No cycle-local value survives a transaction (70_reset_and_hazards.md R450). -/
  cycEmpty : s.cyc = Cyc.empty
  /-- Placeholder and reserved states are never entered (44_state_machine.md R301). -/
  executes : executing s.ctl.status.opstate s.ctl.status.subphase = true
  /-- FAULT_LATCHED = 1 exactly when OPSTATE = Error (60_exceptions.md R403). -/
  latchedIffError : s.ctl.status.faultLatched = true ↔ s.ctl.status.opstate = .error
  /-- A fault code is latched exactly when FAULT_LATCHED = 1 (10_state.md R37). -/
  codeIffLatched : s.ctl.code ≠ .none ↔ s.ctl.status.faultLatched = true
  /-- The software break is commanded exactly in Error (60_exceptions.md R402, R412). -/
  breakIffError : s.ctl.status.swBrk = true ↔ s.ctl.status.opstate = .error
  /-- In Error no phase is driven (43_controller.md R266, 60_exceptions.md R402). -/
  errorIsOff : s.ctl.status.opstate = .error → s.foc.phaseEn = Phase.all false
  /-- Outside Error fewer than three violating cycles have been counted (41_protection.md R201). -/
  violBelowTrip : s.ctl.status.opstate ≠ .error → s.ctl.violCnt.toNat < 3
  /-- Phases are driven all together, a and b only, or not at all (43_controller.md R265 to R267, 45_commissioning.md
  R330). -/
  phasesLegal : s.foc.phaseEn = Phase.all false ∨ s.foc.phaseEn = Phase.all true ∨ s.foc.phaseEn = ⟨true, true, false⟩
  /-- WARMUP_CNT counts 0..1000 (10_state.md R52). -/
  warmupBound : s.pipe.warmupCnt.toNat ≤ 1000
  /-- WARMUP_DONE is 1 once WARMUP_CNT = 1000 (10_state.md R37). -/
  warmupDone : s.ctl.status.warmupDone = true ↔ s.pipe.warmupCnt.toNat = 1000
  /-- The warm-up sums cannot overflow: each is at most 65535 a sample (10_state.md R52). -/
  warmupSums : ∀ k : Fin 3, (s.pipe.wsum.get k).toNat ≤ s.pipe.warmupCnt.toNat * 65535
  /-- LAST_HALL is 0 or a valid Hall state (10_state.md R45, 42_estimator.md R220). -/
  lastHallValid : s.ctl.lastHall ≠ 7
  /-- HallRun is entered only with HT_VALID = 1 (44_state_machine.md R304, R305, R307, R308). -/
  hallRunHasTable : s.ctl.status.opstate = .hallRun → s.ctl.status.htValid = true

end Sys2Proof.Machine
end

