-- ==== Sys2Proof/Certificates/Slice0/Obligations.lean ====
section
/-! DEFINITION. The statements for the provers, from the numbered rules of spec/. Where a result may be a NaN, its sign and
payload are free (00_scope.md R20): such a statement says that for SOME choice `q` of them the result is the rule's
formula, so it rests on no value of a free field (log entry 5). -/

section
open Sys2Proof Sys2Proof.Machine

/-! ## Encoding -/

/-- Words written out from the spec's encodings decode to the instructions they stand for (30_encoding.md R133 to R136,
R139, R143; that a lone uop id may stand in the stream is the model's, log entry 3). -/
def Obligations.SpecWordsDecode : Prop :=
  decode [.head 0x000C00000000] = .ok (.rd 0x00C, []) ∧
  decode [.head 0x400400000003] = .ok (.wr 0x004 3, []) ∧
  decode [.head 0x800100000000, .sample 0x0300080008000800] = .ok (.tick 0 0 1 2048 2048 2048 768, []) ∧
  decode [.head 0xC00000000000] = .ok (.reset, []) ∧
  decode [.head 0x400800000001] = .ok (.faultReset 0 0, []) ∧
  decode [.head 0x400800000002] = .ok (.clearDirty 0, []) ∧
  decode [.head 0x400800000003] = .ok (.faultReset 1 0, []) ∧
  decode [.uop 0x01] = .ok (.sample, []) ∧ decode [.uop 0x09] = .ok (.protect, []) ∧
  decode [.uop 0x0C] = .ok (.track, []) ∧ decode [.uop 0x11] = .ok (.svpwm, []) ∧
  decode [.uop 0x13] = .ok (.fsm, []) ∧ decode [.uop 0x19] = .ok (.hlFinish, [])

/-- Decoding the encoding of a well-formed instruction gives it back, with the rest of the stream (30_encoding.md R131 to
R139, R143). The stream of whole words and the command rows are the model's (log entries 2, 3 and 15). -/
def Obligations.DecodeOfEncode : Prop :=
  ∀ (i : Instr) (rest : List BusWord), i.wellFormed = true → decode (encode i ++ rest) = .ok (i, rest)

/-- What decodes is the encoding of a well-formed instruction: no bit of an accepted word is dropped (log entries
2, 3 and 15). -/
def Obligations.EncodeOfDecode : Prop :=
  ∀ (ws rest : List BusWord) (i : Instr), decode ws = .ok (i, rest) → i.wellFormed = true ∧ ws = encode i ++ rest

/-- A head is refused as illegal exactly when a reserved bit is set (30_encoding.md R140), and a uop id is refused exactly
when it is reserved (R144). -/
def Obligations.ReservedEncodingsRefused : Prop :=
  (∀ (s : State) (h : BitVec 48) (rest : List BusWord), s.stream = .head h :: rest →
    let op := h.extractLsb' 46 2
    (step s = .refused .illegalHead ↔
      h.extractLsb' 44 2 ≠ 0 ∨ (op ≠ 1 ∧ h.extractLsb' 0 32 ≠ 0) ∨ (op = 3 ∧ h.extractLsb' 32 12 ≠ 0) ∨
        (op = 2 ∧ h.extractLsb' 40 6 ≠ 0))) ∧
  (∀ (s : State) (id : BitVec 6) (rest : List BusWord), s.stream = .uop id :: rest →
    (step s = .refused .reservedUop ↔ id.toNat = 0 ∨ 0x1F ≤ id.toNat))

/-! ## The step -/

/-- When the stream decodes to an instruction, the step is that instruction's, with its words taken off the stream.
The stream is the model's form of a program (log entry 1). -/
def Obligations.StepRunsDecodedInstruction : Prop :=
  ∀ (s : State) (i : Instr) (rest : List BusWord), decode s.stream = .ok (i, rest) →
    step s = exec i { s with stream := rest }

/-! ## The register space -/

/-- The map is a bijection between registers and their aligned addresses: no two registers share an address, and each
register is found at its own; byte address `4w + j` names bits `[8j+7:8j]` of the register at `4w` (20_memory.md R101,
R102). -/
def Obligations.RegisterMapIsLittleEndian : Prop :=
  (∀ r : Reg, r.addr < 4096 ∧ r.addr % 4 = 0 ∧ Reg.ofAddr r.busAddr = some r) ∧
  (∀ (a : BitVec 12) (r : Reg), Reg.ofAddr a = some r → r.addr = a.toNat) ∧
  (∀ (s : State) (r : Reg) (j : Fin 4),
    s.readByte (BitVec.ofNat 12 (r.addr + j.val)) = some ((r.read s).extractLsb' (8 * j.val) 8))

/-- RD: refused before the first RESET; a bus error for a misaligned or unmapped address; for a mapped one the register's
value (0 for CMD), with no side effect (46_host_interface.md R370). -/
def Obligations.ReadReturnsRegister : Prop :=
  (∀ a : BitVec 12, ∃ h : BitVec 48, h.extractLsb' 46 2 = 0 ∧ h.extractLsb' 32 12 = a ∧
    ∀ rest, decode (.head h :: rest) = .ok (.rd a, rest)) ∧
  (∀ (s : State) (a : BitVec 12), s.resetSeen = false → exec (.rd a) s = .refused .beforeReset) ∧
  (∀ (s : State) (a : BitVec 12), s.resetSeen = true → (a.toNat % 4 ≠ 0 ∨ ∀ r : Reg, r.addr ≠ a.toNat) →
    exec (.rd a) s = .next (s.respond (.busError a)) ∧ HostFrame [] (.busError a) s (s.respond (.busError a))) ∧
  (∀ (s : State) (r : Reg), s.resetSeen = true →
    exec (.rd r.busAddr) s = .next (s.respond (.data (r.read s))) ∧
    HostFrame [] (.data (r.read s)) s (s.respond (.data (r.read s))) ∧
    (r = .cmd → r.read s = 0) ∧ (r = .id → r.read s = 0x4D455343) ∧ r.read s &&& ~~~ r.fieldMask = 0)

/-- A misaligned or unmapped address, and a WR to a read-only register, end with a bus error that carries the address and
changes no state (20_memory.md R103, R105, R106; 46_host_interface.md R375). -/
def Obligations.BadAccessIsBusError : Prop :=
  (∀ (s : State) (a : BitVec 12) (v : Word), s.resetSeen = true → (a.toNat % 4 ≠ 0 ∨ ∀ r : Reg, r.addr ≠ a.toNat) →
    exec (.rd a) s = .next (s.respond (.busError a)) ∧ exec (.wr a v) s = .next (s.respond (.busError a))) ∧
  (∀ (s : State) (r : Reg) (v : Word), s.resetSeen = true → r.access = .ro →
    exec (.wr r.busAddr v) s = .next (s.respond (.busError r.busAddr))) ∧
  (∀ (s : State) (a : BitVec 12), HostFrame [] (.busError a) s (s.respond (.busError a)))

/-- Reserved bits read 0 in every register, and WR to an RW register stores its defined bits and no others, and changes no
other register and no other byte (46_host_interface.md R371; 20_memory.md R104, R107). -/
def Obligations.WriteStoresDefinedFields : Prop :=
  (∀ (s : State) (r : Reg), r.read s &&& ~~~ r.fieldMask = 0) ∧
  ∀ (s : State) (r : Reg) (v : Word), s.resetSeen = true → r.access = .rw →
    ∃ t, exec (.wr r.busAddr v) s = .next t ∧ r.read t = v &&& r.fieldMask ∧ HostFrame [r] .ok s t ∧
      ∀ b : BitVec 12, b.toNat / 4 ≠ r.addr / 4 → t.readByte b = s.readByte b

/-- A WR to CMD runs the command the decoder reads from its data, FAULT_RESET before CLEAR_DIRTY; with neither bit set it
does nothing (30_encoding.md R139, 46_host_interface.md R378). The command rows as instructions are log entry 15. -/
def Obligations.CommandWordsAreWrites : Prop :=
  (∀ (s : State) (v : Word), exec (.wr cmdAddr v) s = exec (decodeWr cmdAddr v) s) ∧
  (∀ (s : State) (ign : BitVec 30), s.resetSeen = true →
    exec (.faultReset 1 ign) s = .next ((clearDirtyFlag (leaveError s)).respond .ok) ∧
    exec (.wr cmdAddr (ign ++ (0 : BitVec 2))) s = .next (s.respond .ok))

/-- FAULT_RESET leaves Error for Detecting with the latch, the software break, the violation counter and the integrators
cleared, and has no effect in any other state (46_host_interface.md R376); CLEAR_DIRTY clears DIRTY and nothing else, in
every state (R377). -/
def Obligations.CommandsResetFaultAndDirty : Prop :=
  (∀ rest, decode (.head 0x400800000001 :: rest) = .ok (.faultReset 0 0, rest) ∧
    decode (.head 0x400800000002 :: rest) = .ok (.clearDirty 0, rest)) ∧
  ∀ (s : State) (ign : BitVec 30), s.resetSeen = true →
    (∃ t, exec (.clearDirty ign) s = .next t ∧ t.ctl.status = { s.ctl.status with dirty := false } ∧
      HostFrame [.status] .ok s t) ∧
    ∃ t, exec (.faultReset 0 ign) s = .next t ∧
      (s.ctl.status.opstate = .error →
        t.ctl.status = { s.ctl.status with opstate := .detecting, faultLatched := false, swBrk := false } ∧
        t.ctl.code = .none ∧ t.ctl.violCnt = 0 ∧ t.foc.intD = 0 ∧ t.foc.intQ = 0 ∧ t.outSwbrk = false ∧
        HostFrame [.fault, .status, .intD, .intQ] .ok s t) ∧
      (s.ctl.status.opstate ≠ .error → t = s.respond .ok)

/-- RESET gives every register the value of the map's reset column, from any state, leaves no cycle-local value, and
drives the outputs inactive (70_reset_and_hazards.md R450, 46_host_interface.md R373). -/
def Obligations.ResetSetsEveryRegister : Prop :=
  (∀ s : State, ∃ t, exec .reset s = .next t ∧ t.resetSeen = true ∧ (∀ r : Reg, r.read t = r.resetValue) ∧
    t.cyc = Cyc.empty ∧ t.outCcr = ⟨0, 0, 0⟩ ∧ t.outEn = ⟨false, false, false⟩ ∧ t.outSwbrk = false ∧
    t.ctl.status.opstate = .idle) ∧
  (State.reset.resetSeen = true ∧ (∀ r : Reg, r.read State.reset = r.resetValue) ∧ State.reset.cyc = Cyc.empty)

/-- Before the first RESET every transaction but RESET is refused (70_reset_and_hazards.md R451), and a TICK in a
placeholder or reserved state is refused (44_state_machine.md R301; UNSPEC_STATE_ACTION at its default, log entry 10). -/
def Obligations.RefusalsByName : Prop :=
  (∀ (s : State) (i : Instr), s.resetSeen = false → isTransaction i = true → i ≠ .reset →
    exec i s = .refused .beforeReset) ∧
  (∀ (s : State) (hwbrk : BitVec 1) (probe : BitVec 4) (hall : BitVec 3) (ia ib ic vbus : Half),
    s.resetSeen = true → executing s.ctl.status.opstate s.ctl.status.subphase = false →
      exec (.tick hwbrk probe hall ia ib ic vbus) s = .refused .placeholderState)

/-- A TICK in an executing state completes: it latches its port values, answers with the output ports as they stand after
the cycle, and leaves no cycle-local value (46_host_interface.md R372, 44_state_machine.md R290; the response's form is log
entry 14). -/
def Obligations.TickCompletesAndLatchesPorts : Prop :=
  ∀ (s : State) (hwbrk : BitVec 1) (probe : BitVec 4) (hall : BitVec 3) (ia ib ic vbus : Half),
    s.resetSeen = true → executing s.ctl.status.opstate s.ctl.status.subphase = true →
      ∃ t, exec (.tick hwbrk probe hall ia ib ic vbus) s = .next t ∧
        t.pipe.raw = ⟨ia, ib, ic, vbus⟩ ∧ t.ctl.hallRaw = hall ∧ t.ctl.probe = probe ∧
        t.ctl.status.hwBrk = (s.ctl.status.hwBrk || hwbrk == 1) ∧
        t.responses = s.responses ++ [.outputs t.foc.ccr t.foc.phaseEn t.ctl.status.swBrk] ∧
        t.cyc = Cyc.empty ∧ t.stream = s.stream ∧ t.resetSeen = true

/-! ## The signal pipeline -/

/-- SAMPLE latches the port values of the cycle; HWBRK = 0 never clears HW_BRK (40_signal_pipeline.md R161). Where no TICK
presents ports (a lone SAMPLE, log entry 7) some port values are latched. -/
def Obligations.SampleLatchesPorts : Prop :=
  (∀ rest, decode (.uop 0x01 :: rest) = .ok (.sample, rest)) ∧
  ∀ s : State, ∃ (p : Ports) (t : State), (∀ p', s.cyc.ports = some p' → p = p') ∧ exec .sample s = .next t ∧
    t.pipe.raw = p.raw ∧ t.ctl.hallRaw = p.hall ∧ t.ctl.probe = p.probe ∧ t.ctl.lastHall = s.ctl.lastHall ∧
    t.ctl.status = { s.ctl.status with hwBrk := s.ctl.status.hwBrk || p.hwbrk == 1 } ∧
    UopFrame [.raw 0, .raw 1, .raw 2, .raw 3, .hallio, .status] s t

/-- CONVERT: each physical value is GAIN * (f32(RAW) - OFFSET) (40_signal_pipeline.md R162). -/
def Obligations.ConvertScalesSamples : Prop :=
  (∀ rest, decode (.uop 0x02 :: rest) = .ok (.convert, rest)) ∧
  ∀ s : State, ∃ t, exec .convert s = .next t ∧
    (∃ q : Nat → BitVec 23, ∀ ch : Fin 4,
      t.pipe.phys.get ch =
        F32.mul (q (2 * ch.val + 1)) (s.pipe.gain.get ch)
          (F32.sub (q (2 * ch.val)) (F32.ofNat (s.pipe.raw.get ch).toNat) (s.pipe.offset.get ch))) ∧
    UopFrame [.phys 0, .phys 1, .phys 2, .phys 3] s t

/-- WARMUP: sums, count, running-average offsets and WARMUP_DONE while fewer than 1000 samples are averaged, and no effect
after that (40_signal_pipeline.md R163). -/
def Obligations.WarmupAveragesOffsets : Prop :=
  (∀ rest, decode (.uop 0x03 :: rest) = .ok (.warmup, rest)) ∧
  (∀ s : State, s.pipe.warmupCnt.toNat < 1000 → ∃ t, exec .warmup s = .next t ∧
    (∀ k : Fin 3, t.pipe.wsum.get k = s.pipe.wsum.get k + (s.pipe.raw.get k.castSucc).setWidth 32) ∧
    t.pipe.warmupCnt.toNat = s.pipe.warmupCnt.toNat + 1 ∧
    (∃ q : Nat → BitVec 23, ∀ k : Fin 3,
      t.pipe.offset.get k.castSucc =
        F32.div (q k) (F32.ofNat (t.pipe.wsum.get k).toNat) (F32.ofNat t.pipe.warmupCnt.toNat)) ∧
    t.ctl.status =
      { s.ctl.status with warmupDone := s.ctl.status.warmupDone || t.pipe.warmupCnt.toNat == 1000 } ∧
    UopFrame [.wsum 0, .wsum 1, .wsum 2, .warmupCnt, .offset 0, .offset 1, .offset 2, .status] s t) ∧
  (∀ s : State, 1000 ≤ s.pipe.warmupCnt.toNat → exec .warmup s = .next s)

/-- CLARKSEL names the phase with the largest compare value, the lowest such index on a tie; it excludes that phase when
its value is above CLARK_SAT, and runs the variant it names (40_signal_pipeline.md R164). -/
def Obligations.ClarkselExcludesMostSaturated : Prop :=
  (∀ rest, decode (.uop 0x1E :: rest) = .ok (.clarksel, rest)) ∧
  ∀ s : State, ∃ (m : Fin 3) (v : ClarkVar) (t : State),
    (∀ k : Fin 3, (s.foc.ccr.get k).toNat ≤ (s.foc.ccr.get m).toNat) ∧
    (∀ k : Fin 3, k < m → (s.foc.ccr.get k).toNat < (s.foc.ccr.get m).toNat) ∧
    v.bits.toNat = (if s.ctl.clarkSat.toNat < (s.foc.ccr.get m).toNat then m.val + 1 else 0) ∧
    exec .clarksel s = .next t ∧ t.ctl.status = { s.ctl.status with clarkVar := v } ∧
    exec (clarkInstr v) (s.onStatus fun x => { x with clarkVar := v }) = .next t ∧
    UopFrame [.status, .iAlpha, .iBeta] s t

/-- The four Clark transforms: the three-phase one and the three that exclude a phase (40_signal_pipeline.md R165 to
R168, whose formulas the spec marks "[from general knowledge, not in source]"). That CLARK3 follows R165's pseudocode for
the sign of a zero, against its corner case, is log entry 33. -/
def Obligations.ClarkTransforms : Prop :=
  (∀ rest, decode (.uop 0x04 :: rest) = .ok (.clark3, rest) ∧ decode (.uop 0x05 :: rest) = .ok (.clark2Xa, rest) ∧
    decode (.uop 0x06 :: rest) = .ok (.clark2Xb, rest) ∧ decode (.uop 0x07 :: rest) = .ok (.clark2Xc, rest)) ∧
  ∀ s : State,
    let ia := s.pipe.phys.ia
    let ib := s.pipe.phys.ib
    let ic := s.pipe.phys.ic
    (∃ t, exec .clark3 s = .next t ∧ UopFrame [.iAlpha, .iBeta] s t ∧ ∃ q : Nat → BitVec 23,
      t.foc.iAlpha =
        F32.mul (q 0) 0x3F2AAAAB
          (F32.sub (q 1) (F32.sub (q 2) ia (F32.mul (q 3) 0x3F000000 ib)) (F32.mul (q 4) 0x3F000000 ic)) ∧
      t.foc.iBeta = F32.mul (q 5) 0x3F13CD3A (F32.sub (q 6) ib ic)) ∧
    (∃ t, exec .clark2Xa s = .next t ∧ UopFrame [.iAlpha, .iBeta] s t ∧ ∃ q : Nat → BitVec 23,
      t.foc.iAlpha = F32.sub (q 0) (F32.neg ib) ic ∧ t.foc.iBeta = F32.mul (q 1) 0x3F13CD3A (F32.sub (q 2) ib ic)) ∧
    (∃ t, exec .clark2Xb s = .next t ∧ UopFrame [.iAlpha, .iBeta] s t ∧ ∃ q : Nat → BitVec 23,
      t.foc.iAlpha = ia ∧
      t.foc.iBeta = F32.neg (F32.mul (q 0) 0x3F13CD3A (F32.add (q 1) ia (F32.mul (q 2) 0x40000000 ic)))) ∧
    (∃ t, exec .clark2Xc s = .next t ∧ UopFrame [.iAlpha, .iBeta] s t ∧ ∃ q : Nat → BitVec 23,
      t.foc.iAlpha = ia ∧
      t.foc.iBeta = F32.mul (q 0) 0x3F13CD3A (F32.add (q 1) ia (F32.mul (q 2) 0x40000000 ib)))

/-- PARK rotates the stationary-frame current by the stored sine and cosine (40_signal_pipeline.md R169, whose sign
convention the spec marks "[from general knowledge, not in source]"). For an infinite current the pseudocode is followed
(log entry 33). -/
def Obligations.ParkRotatesCurrent : Prop :=
  (∀ rest, decode (.uop 0x08 :: rest) = .ok (.park, rest)) ∧
  ∀ s : State, ∃ t, exec .park s = .next t ∧
    (∃ q : Nat → BitVec 23,
      t.foc.iD = F32.add (q 0) (F32.mul (q 1) s.foc.cos s.foc.iAlpha) (F32.mul (q 2) s.foc.sin s.foc.iBeta) ∧
      t.foc.iQ = F32.sub (q 3) (F32.mul (q 4) s.foc.cos s.foc.iBeta) (F32.mul (q 5) s.foc.sin s.foc.iAlpha)) ∧
    UopFrame [.iD, .iQ] s t

/-- SINCOS reads the table at the top eight bits of THETA and 64 entries ahead; the pair lies on the unit circle within
2^-22 (40_signal_pipeline.md R170). -/
def Obligations.SincosReadsTable : Prop :=
  (∀ rest, decode (.uop 0x0D :: rest) = .ok (.sincos, rest)) ∧
  ∀ s : State, ∃ t, exec .sincos s = .next t ∧
    t.foc.sin = Reg.read (.sintab (Fin.ofNat 256 (s.est.theta.toNat / 256))) s ∧
    t.foc.cos = Reg.read (.sintab (Fin.ofNat 256 (s.est.theta.toNat / 256 + 64))) s ∧
    UopFrame [.sin, .cos] s t ∧
    ∀ q : Nat → BitVec 23,
      let n := F32.add (q 0) (F32.mul (q 1) t.foc.sin t.foc.sin) (F32.mul (q 2) t.foc.cos t.foc.cos)
      F32.le 0x3F7FFFFC n = true ∧ F32.le n 0x3F800002 = true

/-- The sine table, at SINTAB's default (log entry 9): 0, 1, 0, -1 at the quarters; odd over the half revolution, even about
the quarter, and strictly rising up to it (10_state.md R90, whose entries the spec marks "[from general knowledge, not in
source]"). -/
def Obligations.SineTableSymmetries : Prop :=
  let e (k : Nat) : Word := Reg.read (.sintab (Fin.ofNat 256 k)) State.reset
  e 0 = 0 ∧ e 64 = 0x3F800000 ∧ e 128 = 0 ∧ e 192 = 0xBF800000 ∧
  (∀ k : Fin 127, e (k.val + 129) = F32.neg (e (k.val + 1))) ∧ (∀ k : Fin 127, e (127 - k.val) = e (k.val + 1)) ∧
  (∀ k : Fin 64, F32.lt (e k.val) (e (k.val + 1)) = true)

/-! ## Protection and the estimator -/

/-- PROTECT: the violation test, the reference scaling, the counter, and on the third consecutive violation the snapshot
and the fault (41_protection.md R201, R203). -/
def Obligations.ProtectCountsAndTrips : Prop :=
  (∀ rest, decode (.uop 0x09 :: rest) = .ok (.protect, rest)) ∧
  ∀ s : State,
    let viol : Prop := ∃ ch : Fin 4, (s.pipe.limHi.get ch).toNat < (s.pipe.raw.get ch).toNat ∨
      (s.pipe.raw.get ch).toNat < (s.pipe.limLo.get ch).toNat
    (¬ viol → ∃ t, exec .protect s = .next t ∧ t.ctl.violCnt = 0 ∧ t.ctl.code = s.ctl.code ∧
      UopFrame [.fault] s t) ∧
    (viol → ∃ t, exec .protect s = .next t ∧
      (∃ q : Nat → BitVec 23,
        t.foc.idReq = F32.mul (q 0) s.foc.idReq 0x3F666666 ∧ t.foc.iqReq = F32.mul (q 1) s.foc.iqReq 0x3F666666) ∧
      t.ctl.violCnt.toNat = min (s.ctl.violCnt.toNat + 1) 255 ∧
      if 3 ≤ t.ctl.violCnt.toNat ∧ s.ctl.status.faultLatched = false then
        t.ctl.fraw = s.pipe.raw ∧ EntersError .overLimit s t ∧
        UopFrame [.idReq, .iqReq, .fault, .fraw 0, .fraw 1, .fraw 2, .fraw 3, .status, .phaseEn] s t
      else t.ctl.code = s.ctl.code ∧ UopFrame [.idReq, .iqReq, .fault] s t)

/-- HALL: faults on the states 0 and 7; otherwise an event on a change of state and nothing without one
(42_estimator.md R220). -/
def Obligations.HallDetectsEdges : Prop :=
  (∀ rest, decode (.uop 0x0A :: rest) = .ok (.hall, rest)) ∧
  (∀ s : State, s.ctl.hallRaw = 0 → ∃ t, exec .hall s = .next t ∧ EntersError .invalidHallState0 s t ∧
    t.ctl.violCnt = s.ctl.violCnt ∧ UopFrame [.fault, .status, .phaseEn] s t) ∧
  (∀ s : State, s.ctl.hallRaw = 7 → ∃ t, exec .hall s = .next t ∧ EntersError .invalidHallState7 s t ∧
    t.ctl.violCnt = s.ctl.violCnt ∧ UopFrame [.fault, .status, .phaseEn] s t) ∧
  (∀ s : State, s.ctl.hallRaw ≠ 0 → s.ctl.hallRaw ≠ 7 → s.ctl.hallRaw = s.ctl.lastHall → exec .hall s = .next s) ∧
  (∀ (s : State) (k : Fin 6), s.ctl.hallRaw.toNat = k.val + 1 → s.ctl.hallRaw ≠ s.ctl.lastHall →
    let c := (s.mot.ht.get k).center
    ∃ t, exec .hall s = .next t ∧
      t.cyc =
        { s.cyc with
          hallEvt := some { ang := c, fwd := decide ((c - s.est.lastHallCenter).toNat < 32768), src := .hall } } ∧
      t.ctl.lastHall = s.ctl.hallRaw ∧ t.ctl.hallRaw = s.ctl.hallRaw ∧ t.ctl.probe = s.ctl.probe ∧
      t.est.lastHallCenter = c ∧ RegsFixedBut [.hallio, .lastHallCenter] s t ∧ RunFixed s t)

/-- FLUX: the two clamped integrals, the comparator, and a crossing event outside the blanking window
(42_estimator.md R222). The flux model behind the event's angles 8192 and 40960 and its direction is R223's, which the spec
marks "[from general knowledge, not in source]". The events that the pseudocode makes with FLUX_LINK = 0.0, against the
corner case, are log entry 35. -/
def Obligations.FluxIntegratesAndCrosses : Prop :=
  (∀ rest, decode (.uop 0x0B :: rest) = .ok (.flux, rest)) ∧
  ∀ s : State, ∃ (t : State) (q : Nat → BitVec 23), exec .flux s = .next t ∧
    (let lam := s.mot.fluxLink
     t.est.fluxA =
        F32.clampf
          (F32.add (q 3) s.est.fluxA
            (F32.mul (q 2) (F32.sub (q 1) s.foc.vAlpha (F32.mul (q 0) s.mot.rPhase s.foc.iAlpha)) s.ctl.tPwm))
          (F32.neg lam) lam ∧
      t.est.fluxB =
        F32.clampf
          (F32.add (q 7) s.est.fluxB
            (F32.mul (q 6) (F32.sub (q 5) s.foc.vBeta (F32.mul (q 4) s.mot.rPhase s.foc.iBeta)) s.ctl.tPwm))
          (F32.neg lam) lam) ∧
    t.ctl.status =
      { s.ctl.status with fluxSign := F32.ge (F32.sub (q 8) t.est.fluxB t.est.fluxA) 0 } ∧
    (if t.ctl.status.fluxSign ≠ s.ctl.status.fluxSign ∧ 10 ≤ s.est.fluxBlk.toNat then
      let ang : Half := if F32.ge t.est.fluxA 0 then 8192 else 40960
      t.est.fluxBlk = 0 ∧
      t.cyc = { s.cyc with fluxEvt := some { ang := ang, fwd := (ang == 8192) == t.ctl.status.fluxSign, src := .flux } }
    else t.est.fluxBlk.toNat = min (s.est.fluxBlk.toNat + 1) 255 ∧ t.cyc = s.cyc) ∧
    RegsFixedBut [.fluxA, .fluxB, .fluxBlk, .status] s t ∧ RunFixed s t

/-- TRACK: the event part (a Hall event before a flux event), the advance with error decay, and the timeout
(42_estimator.md R224, R225). That an event overwrites a NaN TRK_ERR, and what the smoothing gives at TRK_ALPHA 0
and 1, is R225's pseudocode against its corner cases (log entries 32 and 33). -/
def Obligations.TrackFollowsEvents : Prop :=
  (∀ rest, decode (.uop 0x0C :: rest) = .ok (.track, rest)) ∧
  ∀ s : State, ∃ (t : State) (q : Nat → BitVec 23) (cnt err : Word), exec .track s = .next t ∧
    (match s.cyc.hallEvt, s.cyc.fluxEvt with
      | none, none =>
        cnt.toNat = min (s.est.trkCnt.toNat + 1) (2 ^ 32 - 1) ∧ err = s.est.trkErr ∧
        t.est.trkStep = s.est.trkStep ∧ t.est.trkInvper = s.est.trkInvper ∧ t.est.lastEvt = s.est.lastEvt ∧
        t.ctl.status = s.ctl.status
      | some e, _ | none, some e =>
        let n := F32.ofNat (min (s.est.trkCnt.toNat + 1) (2 ^ 32 - 1))
        let d := e.ang - s.est.lastEvt
        let delta : Int := if d = 0 then 0 else if e.fwd then (d.toNat : Int) else (d.toNat : Int) - 65536
        let a := s.est.trkAlpha
        cnt = 0 ∧ err = F32.ofInt (s16 (e.ang - s.est.theta)) ∧
        (if s.ctl.status.evtSeen then
          t.est.trkStep =
            F32.add (q 0) s.est.trkStep
              (F32.mul (q 1) a (F32.sub (q 2) (F32.div (q 3) (F32.ofInt delta) n) s.est.trkStep)) ∧
          t.est.trkInvper =
            F32.add (q 4) s.est.trkInvper
              (F32.mul (q 5) a (F32.sub (q 6) (F32.div (q 7) 0x3F800000 n) s.est.trkInvper))
        else t.est.trkStep = s.est.trkStep ∧ t.est.trkInvper = s.est.trkInvper) ∧
        t.est.lastEvt = e.ang ∧
        t.ctl.status = { s.ctl.status with evtSeen := true, lastSrc := e.src, dir := e.fwd }) ∧
    (let corr := F32.mul (q 8) s.est.trkKerr err
     t.est.trkErr = F32.sub (q 9) err corr ∧
      if 3000 < cnt.toNat then t.est.theta = s.est.lastHallCenter ∧ t.est.trkCnt = s.est.trkRestart
      else t.est.theta = s.est.theta + toAngleStep (F32.add (q 10) t.est.trkStep corr) ∧ t.est.trkCnt = cnt) ∧
    RegsFixedBut [.trkCnt, .trkStep, .trkInvper, .trkErr, .lastEvt, .theta, .status] s t ∧ RunFixed s t

/-- The timeout scenario: from TRK_CNT = 0, 3000 executions of TRACK without an event force nothing, and the 3001st puts
THETA at LAST_HALL_CENTER and TRK_CNT at TRK_RESTART (42_estimator.md R226, which the spec derives from R225). -/
def Obligations.TrackTimeoutAfter3001 : Prop :=
  ∀ (run : Nat → State), (∀ n, exec .track (run n) = .next (run (n + 1))) →
    (run 0).est.trkCnt = 0 → (run 0).cyc.hallEvt = none → (run 0).cyc.fluxEvt = none →
    (∀ n, n ≤ 3000 → (run n).est.trkCnt.toNat = n) ∧
    (∀ n, n < 3000 → ∃ q q' : BitVec 23,
      (run (n + 1)).est.theta =
        (run n).est.theta +
          toAngleStep (F32.add q (run n).est.trkStep (F32.mul q' (run n).est.trkKerr (run n).est.trkErr))) ∧
    (run 3001).est.theta = (run 0).est.lastHallCenter ∧ (run 3001).est.trkCnt = (run 0).est.trkRestart

/-! ## The controller and the modulator -/

/-- PI: below the divisor only the counter moves; at the divisor the law runs for the d axis and then the q axis
(43_controller.md R260, R261). Where infinities meet, R261's pseudocode is followed against its corner case (log entry 34). -/
def Obligations.PiRunsEveryNth : Prop :=
  (∀ rest, decode (.uop 0x0E :: rest) = .ok (.pi, rest)) ∧
  (∀ s : State, s.foc.piCnt.toNat + 1 < max 1 s.ctl.piDiv.toNat → ∃ t, exec .pi s = .next t ∧
    t.foc.piCnt.toNat = s.foc.piCnt.toNat + 1 ∧ UopFrame [.piCnt] s t) ∧
  (∀ s : State, max 1 s.ctl.piDiv.toNat ≤ s.foc.piCnt.toNat + 1 → ∃ (t : State) (q : Nat → BitVec 23),
    exec .pi s = .next t ∧ t.foc.piCnt = 0 ∧
    (let e := F32.sub (q 0) s.foc.idReq s.foc.iD
     t.foc.intD =
        F32.clampf (F32.add (q 1) s.foc.intD (F32.mul (q 2) s.foc.kiD e)) (F32.neg s.foc.vdMax) s.foc.vdMax ∧
      t.foc.vd =
        F32.clampf (F32.add (q 3) (F32.mul (q 4) s.foc.kpD e) t.foc.intD) (F32.neg s.foc.vdMax) s.foc.vdMax) ∧
    (let e := F32.sub (q 5) s.foc.iqReq s.foc.iQ
     t.foc.intQ =
        F32.clampf (F32.add (q 6) s.foc.intQ (F32.mul (q 7) s.foc.kiQ e)) (F32.neg s.foc.vqMax) s.foc.vqMax ∧
      t.foc.vq =
        F32.clampf (F32.add (q 8) (F32.mul (q 9) s.foc.kpQ e) t.foc.intQ) (F32.neg s.foc.vqMax) s.foc.vqMax) ∧
    UopFrame [.piCnt, .intD, .vd, .intQ, .vq] s t)

/-- Anti-windup: after an update with VMAX >= 0, each integrator and each output that is a number lies in
[-VMAX, VMAX] (43_controller.md R261, corner cases). That a NaN may arise where no operand is one is log entry 34. -/
def Obligations.PiAntiWindup : Prop :=
  ∀ s t : State, exec .pi s = .next t → max 1 s.ctl.piDiv.toNat ≤ s.foc.piCnt.toNat + 1 →
    (F32.ge s.foc.vdMax 0 = true →
      (F32.isNaN t.foc.intD = false →
        F32.le (F32.neg s.foc.vdMax) t.foc.intD = true ∧ F32.le t.foc.intD s.foc.vdMax = true) ∧
      (F32.isNaN t.foc.vd = false →
        F32.le (F32.neg s.foc.vdMax) t.foc.vd = true ∧ F32.le t.foc.vd s.foc.vdMax = true)) ∧
    (F32.ge s.foc.vqMax 0 = true →
      (F32.isNaN t.foc.intQ = false →
        F32.le (F32.neg s.foc.vqMax) t.foc.intQ = true ∧ F32.le t.foc.intQ s.foc.vqMax = true) ∧
      (F32.isNaN t.foc.vq = false →
        F32.le (F32.neg s.foc.vqMax) t.foc.vq = true ∧ F32.le t.foc.vq s.foc.vqMax = true))

/-- INVPARK and INVCLARK (43_controller.md R262, R263; the spec marks both formulas, the inverse Park and the inverse Clark,
"[from general knowledge, not in source]"). That R262's pseudocode holds against its corner case for the sign of a zero
V_BETA is log entry 30. -/
def Obligations.InverseTransforms : Prop :=
  (∀ rest, decode (.uop 0x0F :: rest) = .ok (.invpark, rest) ∧ decode (.uop 0x10 :: rest) = .ok (.invclark, rest)) ∧
  ∀ s : State,
    (∃ (t : State) (q : Nat → BitVec 23), exec .invpark s = .next t ∧
      t.foc.vAlpha = F32.sub (q 0) (F32.mul (q 1) s.foc.cos s.foc.vd) (F32.mul (q 2) s.foc.sin s.foc.vq) ∧
      t.foc.vBeta = F32.add (q 3) (F32.mul (q 4) s.foc.sin s.foc.vd) (F32.mul (q 5) s.foc.cos s.foc.vq) ∧
      UopFrame [.vAlpha, .vBeta] s t) ∧
    (∃ (t : State) (q : Nat → BitVec 23), exec .invclark s = .next t ∧ t.foc.vph.a = s.foc.vAlpha ∧
      t.foc.vph.b =
        F32.add (q 0) (F32.mul (q 1) 0xBF000000 s.foc.vAlpha) (F32.mul (q 2) 0x3F5DB3D7 s.foc.vBeta) ∧
      t.foc.vph.c =
        F32.sub (q 3) (F32.mul (q 4) 0xBF000000 s.foc.vAlpha) (F32.mul (q 5) 0x3F5DB3D7 s.foc.vBeta) ∧
      UopFrame [.vph 0, .vph 1, .vph 2] s t)

/-- SVPWM: the compare values are the scaled voltages, offset by half scale less their midpoint and clamped into the timer
range; they are cycle-local and no register changes (43_controller.md R264). -/
def Obligations.SvpwmCentersDuties : Prop :=
  (∀ rest, decode (.uop 0x11 :: rest) = .ok (.svpwm, rest)) ∧
  ∀ s : State, ∃ (t : State) (q : Nat → BitVec 23), exec .svpwm s = .next t ∧
    (let d (k : Fin 3) := F32.mul (q k) (s.foc.vph.get k) s.ctl.vabToPwm
     let half := F32.mul (q 3) 0x3F000000 (F32.ofNat s.ctl.pwmFull.toNat)
     let sum := F32.add (q 4) (F32.maxf3 (d 0) (d 1) (d 2)) (F32.minf3 (d 0) (d 1) (d 2))
     let mid := F32.sub (q 6) half (F32.mul (q 5) 0x3F000000 sum)
     t.cyc =
        { s.cyc with
          ccrNext := some (Phase.ofFn fun k => toDuty (F32.add (q (7 + k.val)) (d k) mid) s.ctl.pwmFull) }) ∧
    RegsFixedBut [] s t ∧ RunFixed s t

/-- Every compare value of SVPWM is at most PWM_FULL, for any input, NaN and infinities included (43_controller.md R264,
corner cases). -/
def Obligations.SvpwmStaysInRange : Prop :=
  ∀ s t : State, exec .svpwm s = .next t →
    ∃ c : Phase Half, t.cyc.ccrNext = some c ∧ ∀ k : Fin 3, (c.get k).toNat ≤ s.ctl.pwmFull.toNat

/-- PWMOUT drives the cycle's compare values with all phases enabled (43_controller.md R265). Where no SVPWM came before it
(a lone PWMOUT, log entry 7) some compare values are driven. -/
def Obligations.PwmoutDrivesAllPhases : Prop :=
  (∀ rest, decode (.uop 0x12 :: rest) = .ok (.pwmout, rest)) ∧
  ∀ s : State, ∃ (c : Phase Half) (t : State), (∀ c', s.cyc.ccrNext = some c' → c = c') ∧ exec .pwmout s = .next t ∧
    t.foc.ccr = c ∧ t.foc.phaseEn = ⟨true, true, true⟩ ∧ t.outCcr = c ∧ t.outEn = ⟨true, true, true⟩ ∧
    UopFrame [.ccr 0, .ccr 1, .ccr 2, .phaseEn] s t

/-- BREAK disables every phase and asserts the software break; OUTOFF disables every phase and breaks nothing; both keep
the compare values (43_controller.md R266, R267). -/
def Obligations.BreakAndOutoff : Prop :=
  (∀ rest, decode (.uop 0x1B :: rest) = .ok (.brk, rest) ∧ decode (.uop 0x1C :: rest) = .ok (.outoff, rest)) ∧
  ∀ s : State,
    (∃ t, exec .brk s = .next t ∧ t.foc.phaseEn = ⟨false, false, false⟩ ∧
      t.ctl.status = { s.ctl.status with swBrk := true } ∧ t.outEn = ⟨false, false, false⟩ ∧ t.outSwbrk = true ∧
      UopFrame [.phaseEn, .status] s t ∧ exec .brk t = .next t) ∧
    (∃ t, exec .outoff s = .next t ∧ t.foc.phaseEn = ⟨false, false, false⟩ ∧ t.outEn = ⟨false, false, false⟩ ∧
      UopFrame [.phaseEn] s t)

/-! ## The state machine -/

/-- FSM: the two checks of Idle and Measuring (44_state_machine.md R302). -/
def Obligations.FsmLeavesIdleAndMeasuring : Prop :=
  (∀ rest, decode (.uop 0x13 :: rest) = .ok (.fsm, rest)) ∧
  (∀ s : State,
    ((s.ctl.status.opstate = .idle ∧ s.ctl.status.warmupDone = true ∧ s.ctl.run = true) ∨
      s.ctl.status.opstate = .measuring) → s.ctl.paramsValid = true →
    ∃ t, exec .fsm s = .next t ∧ t.ctl.status = { s.ctl.status with opstate := .hallRun, htValid := true } ∧
      UopFrame [.status] s t) ∧
  (∀ s : State, s.ctl.status.opstate = .idle → s.ctl.status.warmupDone = true → s.ctl.run = true →
    s.ctl.paramsValid = false →
    ∃ t, exec .fsm s = .next t ∧ t.ctl.status = { s.ctl.status with opstate := .measuring, subphase := .rlP1 } ∧
      t.com.measCnt = 0 ∧ t.com.measDuty = 0 ∧ t.com.d1 = 0 ∧ t.com.d2 = 0 ∧ t.com.measI1 = 0 ∧ t.com.measI2 = 0 ∧
      t.com.measIh = 0 ∧ t.com.measIl = 0 ∧
      UopFrame [.status, .measCnt, .measDuty, .measD12, .measI1, .measI2, .measIh, .measIl] s t) ∧
  (∀ s : State,
    ¬ (s.ctl.status.opstate = .idle ∧ s.ctl.status.warmupDone = true ∧ s.ctl.run = true) →
    ¬ (s.ctl.status.opstate = .measuring ∧ s.ctl.paramsValid = true) → exec .fsm s = .next s)

/-- DETECT: the four outcomes of the probe code (44_state_machine.md R305). -/
def Obligations.DetectReadsProbe : Prop :=
  (∀ rest, decode (.uop 0x1D :: rest) = .ok (.detect, rest)) ∧
  (∀ s : State, 8 ≤ s.ctl.probe.toNat → ∃ t, exec .detect s = .next t ∧ EntersError .genericHallFault s t ∧
    t.ctl.violCnt = s.ctl.violCnt ∧ UopFrame [.fault, .status, .phaseEn] s t) ∧
  (∀ s : State, s.ctl.probe = 6 ∨ s.ctl.probe = 7 → ∃ t, exec .detect s = .next t ∧
    t.ctl.status = { s.ctl.status with opstate := .sensorlessRun } ∧ UopFrame [.status] s t) ∧
  (∀ s : State, s.ctl.probe.toNat < 6 → s.ctl.status.htValid = true → ∃ t, exec .detect s = .next t ∧
    t.ctl.status = { s.ctl.status with opstate := .hallRun } ∧ UopFrame [.status] s t) ∧
  (∀ s : State, s.ctl.probe.toNat < 6 → s.ctl.status.htValid = false → ∃ t, exec .detect s = .next t ∧
    t.ctl.status = { s.ctl.status with opstate := .measuring, subphase := .hlAlign } ∧ t.com.measCnt = 0 ∧
    (∀ k : Fin 6, t.com.hl.get k = ⟨0, 0, 0⟩) ∧
    UopFrame (.status :: .measCnt :: Reg.hallAccumulators) s t)

/-! ## Self-commissioning -/

/-- MEAS_RL at the two operating points: the duty nudged towards the target band, the filter of the point's current, the
recorded duty in the point's last cycle, the drive pattern and the count (45_commissioning.md R330, R331). What the filter
gives at MEAS_K 0 and 1, and the duty above a lowered PWM_FULL, is R331's pseudocode against its corner cases (log entry
33). -/
def Obligations.MeasRlOperatingPoints : Prop :=
  (∀ rest, decode (.uop 0x14 :: rest) = .ok (.measRl, rest)) ∧
  ∀ s : State,
    let c := s.com.measCnt.toNat
    c < s.com.measT1.toNat ∨ c < s.com.measT2.toNat →
      ∃ (t : State) (q : Nat → BitVec 23), exec .measRl s = .next t ∧
        (let tgt := if c < s.com.measT1.toNat then s.com.iTgt1 else s.com.iTgt2
         let im := F32.neg s.pipe.phys.ib
         let d := s.com.measDuty.toNat
         t.com.measDuty.toNat =
            if F32.lt im (F32.sub (q 0) tgt s.com.iBand) then min (d + 1) s.ctl.pwmFull.toNat
            else if F32.gt im (F32.add (q 1) tgt s.com.iBand) then d - 1
            else d) ∧
        (let filter (x : Word) :=
          F32.add (q 4) x (F32.mul (q 3) s.com.measK (F32.sub (q 2) s.pipe.phys.ib x))
         if c < s.com.measT1.toNat then
            t.ctl.status = { s.ctl.status with subphase := .rlP1 } ∧ t.com.measI1 = filter s.com.measI1 ∧
            t.com.measI2 = s.com.measI2 ∧ t.com.d2 = s.com.d2 ∧
            t.com.d1 = (if c + 1 = s.com.measT1.toNat then t.com.measDuty else s.com.d1)
          else
            t.ctl.status = { s.ctl.status with subphase := .rlP2 } ∧ t.com.measI2 = filter s.com.measI2 ∧
            t.com.measI1 = s.com.measI1 ∧ t.com.d1 = s.com.d1 ∧
            t.com.d2 = (if c + 1 = s.com.measT2.toNat then t.com.measDuty else s.com.d2)) ∧
        t.foc.ccr = ⟨t.com.measDuty, 0, 0⟩ ∧ t.foc.phaseEn = ⟨true, true, false⟩ ∧ t.com.measCnt.toNat = c + 1 ∧
        UopFrame [.status, .measDuty, .measI1, .measI2, .measD12, .ccr 0, .ccr 1, .ccr 2, .phaseEn, .measCnt] s t

/-- MEAS_RL after the operating points: the resistance cycle and the ripple phase (45_commissioning.md R331 to R333).
What the filter gives at MEAS_K 0 and 1 is R331's pseudocode against its corner case (log entry 33). -/
def Obligations.MeasRlResistanceAndRipple : Prop :=
  (∀ s : State,
    let c := s.com.measCnt.toNat
    s.com.measT1.toNat ≤ c → c = s.com.measT2.toNat → ∃ (t : State) (q : Nat → BitVec 23), exec .measRl s = .next t ∧
      t.mot.rPhase =
        F32.div (q 0)
          (F32.mul (q 1)
            (F32.div (q 2) (F32.ofInt ((s.com.d2.toNat : Int) - s.com.d1.toNat))
              (F32.mul (q 3) 0x40000000 (F32.ofNat s.ctl.pwmFull.toNat)))
            s.pipe.phys.vbus)
          (F32.sub (q 4) s.com.measI1 s.com.measI2) ∧
      t.ctl.status = { s.ctl.status with subphase := .rlL } ∧ t.foc.ccr = ⟨s.com.measDuty, 0, 0⟩ ∧
      t.foc.phaseEn = ⟨true, true, false⟩ ∧ t.com.measCnt.toNat = min (c + 1) (2 ^ 32 - 1) ∧
      UopFrame [.rPhase, .status, .ccr 0, .ccr 1, .ccr 2, .phaseEn, .measCnt] s t) ∧
  (∀ s : State,
    let c := s.com.measCnt.toNat
    s.com.measT1.toNat ≤ c → s.com.measT2.toNat < c → c < s.com.measT3.toNat →
      ∃ (t : State) (q : Nat → BitVec 23), exec .measRl s = .next t ∧
        (let im := F32.neg s.pipe.phys.ib
         let filter (x : Word) := F32.add (q 2) x (F32.mul (q 1) s.com.measK (F32.sub (q 0) im x))
         if (c - s.com.measT2.toNat) % 2 = 1 then
            t.com.measIh = filter s.com.measIh ∧ t.com.measIl = s.com.measIl ∧ t.foc.ccr = ⟨0, 0, 0⟩
          else
            t.com.measIl = filter s.com.measIl ∧ t.com.measIh = s.com.measIh ∧
            t.foc.ccr = ⟨s.com.measDuty, 0, 0⟩) ∧
        t.foc.phaseEn = ⟨true, true, false⟩ ∧ t.com.measCnt.toNat = c + 1 ∧
        UopFrame [.measIh, .measIl, .ccr 0, .ccr 1, .ccr 2, .phaseEn, .measCnt] s t)

/-- The completing cycle of MEAS_RL: the inductance with its floor, the gains from it, DIRTY, the phases off, Detecting,
and MEAS_CNT not advanced (45_commissioning.md R334 to R336; the gain formula of R335 is marked "[from general knowledge,
not in source]"). That an infinite negative inductance becomes the floor is R334's pseudocode (log entry 33). -/
def Obligations.MeasRlCompletes : Prop :=
  ∀ s : State,
    let c := s.com.measCnt.toNat
    s.com.measT1.toNat ≤ c → s.com.measT2.toNat < c → s.com.measT3.toNat ≤ c →
      ∃ (t : State) (q : Nat → BitVec 23), exec .measRl s = .next t ∧
        (let i := F32.mul (q 0) 0x3F000000 (F32.add (q 1) s.com.measIh s.com.measIl)
         let di := F32.sub (q 2) s.com.measIh s.com.measIl
         let l :=
          F32.mul (q 3) 0x3F000000
            (F32.div (q 4) (F32.mul (q 5) (F32.mul (q 6) i s.mot.rPhase) s.ctl.tPwm) di)
         t.mot.lPhase = (if F32.gt l 0 then l else s.com.lFloor)) ∧
        t.foc.kpD = F32.mul (q 7) t.mot.lPhase s.com.ctrlBw ∧ t.foc.kpQ = t.foc.kpD ∧
        t.foc.kiD =
          F32.mul (q 10) (F32.mul (q 9) (F32.mul (q 8) s.mot.rPhase s.com.ctrlBw) s.ctl.tPwm)
            (F32.ofNat (max 1 s.ctl.piDiv.toNat)) ∧
        t.foc.kiQ = t.foc.kiD ∧
        t.ctl.status = { s.ctl.status with opstate := .detecting, dirty := true } ∧
        t.foc.phaseEn = ⟨false, false, false⟩ ∧ t.com.measCnt = s.com.measCnt ∧
        UopFrame [.lPhase, .kpD, .kpQ, .kiD, .kiQ, .status, .phaseEn] s t

/-- GAINCALC: the four gains (45_commissioning.md R335, a formula the spec marks "[from general knowledge, not in
source]"). -/
def Obligations.GaincalcComputesGains : Prop :=
  (∀ rest, decode (.uop 0x15 :: rest) = .ok (.gaincalc, rest)) ∧
  ∀ s : State, ∃ (t : State) (q : Nat → BitVec 23), exec .gaincalc s = .next t ∧
    t.foc.kpD = F32.mul (q 0) s.mot.lPhase s.com.ctrlBw ∧ t.foc.kpQ = t.foc.kpD ∧
    t.foc.kiD =
      F32.mul (q 3) (F32.mul (q 2) (F32.mul (q 1) s.mot.rPhase s.com.ctrlBw) s.ctl.tPwm)
        (F32.ofNat (max 1 s.ctl.piDiv.toNat)) ∧
    t.foc.kiQ = t.foc.kiD ∧ UopFrame [.kpD, .kpQ, .kiD, .kiQ] s t

/-- HL_ALIGN: THETA held at 0, and HL_FWD after ALIGN_T cycles (45_commissioning.md R340). -/
def Obligations.HlAlignHoldsAngle : Prop :=
  (∀ rest, decode (.uop 0x16 :: rest) = .ok (.hlAlign, rest)) ∧
  ∀ s : State, ∃ t, exec .hlAlign s = .next t ∧ t.est.theta = 0 ∧
    (if s.com.alignT.toNat ≤ s.com.measCnt.toNat + 1 then
      t.ctl.status = { s.ctl.status with subphase := .hlFwd } ∧ t.com.measCnt = 0 ∧
      UopFrame [.theta, .status, .measCnt] s t
    else t.com.measCnt.toNat = s.com.measCnt.toNat + 1 ∧ UopFrame [.theta, .measCnt] s t)

/-- The accumulation of the two sweeps, for a Hall state 1 to 6: the first angle seen is the sector's reference, the offset
from it is summed, and the count saturates (45_commissioning.md R341). -/
def Obligations.SweepAccumulates : Prop :=
  ∀ (i : Instr) (s : State) (k : Fin 6), i = .hlFwd ∨ i = .hlRev → s.ctl.hallRaw.toNat = k.val + 1 →
    ∃ t, exec i s = .next t ∧
      (let old := s.com.hl.get k
       let new := t.com.hl.get k
       new.ref = (if old.cnt = 0 then s.est.theta else old.ref) ∧
        new.sum = old.sum + BitVec.ofInt 32 (s16 (s.est.theta - new.ref)) ∧
        new.cnt.toNat = min (old.cnt.toNat + 1) (2 ^ 32 - 1)) ∧
      ∀ j : Fin 6, j ≠ k → t.com.hl.get j = s.com.hl.get j

/-- HL_FWD: one step up, or HL_REV where the step would pass 65535 (45_commissioning.md R342). -/
def Obligations.HlFwdSweepsUp : Prop :=
  (∀ rest, decode (.uop 0x17 :: rest) = .ok (.hlFwd, rest)) ∧
  ∀ (s : State) (k : Fin 6), s.ctl.hallRaw.toNat = k.val + 1 →
    let a := s.est.theta.toNat
    let st := max 1 s.com.sweepStep.toNat
    ∃ t, exec .hlFwd s = .next t ∧ t.com.hl = s.com.hl.set k (accumulated (s.com.hl.get k) s.est.theta) ∧
      if 65535 - a < st then
        t.ctl.status = { s.ctl.status with subphase := .hlRev } ∧
        UopFrame [.hlCnt k, .hlSum k, .hlRef k, .status] s t
      else t.est.theta.toNat = a + st ∧ UopFrame [.hlCnt k, .hlSum k, .hlRef k, .theta] s t

/-- HL_REV: one step down, or HL_FINISH where the step would pass 0 (45_commissioning.md R343). -/
def Obligations.HlRevSweepsDown : Prop :=
  (∀ rest, decode (.uop 0x18 :: rest) = .ok (.hlRev, rest)) ∧
  ∀ (s : State) (k : Fin 6), s.ctl.hallRaw.toNat = k.val + 1 →
    let a := s.est.theta.toNat
    let st := max 1 s.com.sweepStep.toNat
    let seen := s.onCom fun x => { x with hl := x.hl.set k (accumulated (x.hl.get k) s.est.theta) }
    (a < st → exec .hlRev s = exec .hlFinish seen) ∧
    (st ≤ a → ∃ t, exec .hlRev s = .next t ∧ t.com.hl = seen.com.hl ∧ t.est.theta.toNat = a - st ∧
      UopFrame [.hlCnt k, .hlSum k, .hlRef k, .theta] s t)

/-- HL_FINISH: each sector's entry from its accumulators, HT_VALID and DIRTY, LAST_HALL_CENTER from the new table, and
HallRun (45_commissioning.md R344). -/
def Obligations.HlFinishBuildsTable : Prop :=
  (∀ rest, decode (.uop 0x19 :: rest) = .ok (.hlFinish, rest)) ∧
  ∀ s : State, ∃ t, exec .hlFinish s = .next t ∧
    (∀ k : Fin 6,
      let acc := s.com.hl.get k
      let e := t.mot.ht.get k
      let n := acc.cnt.toNat
      (n = 0 → e.center = 0 ∧ e.width = 0) ∧
      (n ≠ 0 → e.center = BitVec.ofInt 16 (acc.ref.toNat + Int.tdiv acc.sum.toInt n) ∧ e.width.toNat = min n 65535) ∧
      e.start = e.center - BitVec.ofNat 16 (e.width.toNat / 2) ∧
      e.stop = e.center + BitVec.ofNat 16 (e.width.toNat / 2)) ∧
    t.ctl.status = { s.ctl.status with opstate := .hallRun, htValid := true, dirty := true } ∧
    (∀ k : Fin 6, s.ctl.lastHall.toNat = k.val + 1 → t.est.lastHallCenter = (t.mot.ht.get k).center) ∧
    (s.ctl.lastHall = 0 ∨ s.ctl.lastHall = 7 → t.est.lastHallCenter = s.est.lastHallCenter) ∧
    UopFrame (.status :: .lastHallCenter :: Reg.hallTable) s t

/-- INJECT: VD takes V_INJ and VQ is 0 (45_commissioning.md R345). -/
def Obligations.InjectSetsVoltage : Prop :=
  (∀ rest, decode (.uop 0x1A :: rest) = .ok (.inject, rest)) ∧
  ∀ s : State, ∃ t, exec .inject s = .next t ∧ t.foc.vd = s.com.vInj ∧ t.foc.vq = 0 ∧ UopFrame [.vd, .vq] s t

/-! ## Rules of the whole machine -/

/-- No micro-operation ever stops the run (40_signal_pipeline.md R160, 60_exceptions.md R400: a fault is block state, not
the end of the run). That a lone uop can be run is the model's (log entry 3). -/
def Obligations.MicroOperationsNeverStop : Prop :=
  ∀ (u : Uop) (s : State), ∃ t, exec (uopInstr u) s = .next t ∧ RunFixed s t

/-- A TICK runs the common sequence and then the sequence the table gives for the state as it stands after it, one
instruction after the other; a fault ends the cycle, and when FSM changes the state OUTOFF replaces the rest
(44_state_machine.md R290 to R293, R303). The record of the response is log entry 14, and that FSM sees the WARMUP_DONE of
its own cycle, against a sentence of 70_reset_and_hazards.md R455, is log entry 31. -/
def Obligations.TickRunsTheTable : Prop :=
  ∀ (s : State) (hwbrk : BitVec 1) (probe : BitVec 4) (hall : BitVec 3) (ia ib ic vbus : Half), s.resetSeen = true →
    executing s.ctl.status.opstate s.ctl.status.subphase = true →
    (s.ctl.status.faultLatched = true ↔ s.ctl.status.opstate = .error) →
      ∃ m t : State,
        RunsTo (commonInstrs s)
          { s with cyc := { Cyc.empty with ports := some { raw := ⟨ia, ib, ic, vbus⟩, hall, probe, hwbrk } } } m ∧
        (if faultBetween s m then t = m
          else ∃ is, stateInstrs m.ctl.status.opstate m.ctl.status.subphase = some is ∧ RunsTo is m t) ∧
        exec (.tick hwbrk probe hall ia ib ic vbus) s =
          .next ({ t with cyc := Cyc.empty }.respond (.outputs t.foc.ccr t.foc.phaseEn t.ctl.status.swBrk))

/-- Every change of OPSTATE by a transaction is a row of the transition table, with the row's trigger
(44_state_machine.md R312; for the end of identification in RL_P1 or RL_P2 the model follows 45_commissioning.md R331, log
entry 23). -/
def Obligations.TransitionTable : Prop :=
  ∀ (i : Instr) (s t : State), isTransaction i = true → i.wellFormed = true → s.Inv → exec i s = .next t →
    transitionAllowed i s t

/-- Every step of a stream of transactions keeps the invariant `State.Inv`: legal state, latch and break exactly in
Error, fewer than three counted violations outside it, warm-up sums without overflow, and the rest. -/
def Obligations.StepKeepsInvariant : Prop :=
  ∀ s t : State, s.Inv → transactionsOnly s.stream = true → step s = .next t →
    t.Inv ∧ transactionsOnly t.stream = true

/-- The invariant holds right after RESET. -/
def Obligations.ResetMeetsInvariant : Prop := State.reset.Inv ∧ transactionsOnly State.reset.stream = true

/-- Every program of legal transactions runs to its end from any state of a run, and the end state is again one of a run:
no refusal is reachable but those of the program's text (60_exceptions.md R406, 70_reset_and_hazards.md R467). The stream is
the model's form of a program (log entry 1). -/
def Obligations.EveryLegalProgramRuns : Prop :=
  ∀ (s : State) (is : List Instr), s.Inv → (∀ i ∈ is, isTransaction i = true ∧ i.wellFormed = true) →
    ∃ t, Sys2Proof.core.run is.length { s with stream := is.flatMap encode } = .next t ∧ t.stream = [] ∧ t.Inv

/-- HW_BRK: SAMPLE sets it in every cycle with HWBRK = 1, no instruction but RESET clears it, and the hardware break
changes nothing else of a cycle (60_exceptions.md R408, R410). -/
def Obligations.HardwareBreakIsSticky : Prop :=
  (∀ (i : Instr) (s t : State), exec i s = .next t → i ≠ .reset → s.ctl.status.hwBrk = true →
    t.ctl.status.hwBrk = true) ∧
  (∀ (s t : State) (hwbrk : BitVec 1) (probe : BitVec 4) (hall : BitVec 3) (ia ib ic vbus : Half),
    exec (.tick hwbrk probe hall ia ib ic vbus) s = .next t →
      exec (.tick 0 probe hall ia ib ic vbus) s =
        .next (t.onStatus fun x => { x with hwBrk := s.ctl.status.hwBrk }) ∧
      t.ctl.status.hwBrk = (s.ctl.status.hwBrk || hwbrk == 1))

/-- A faulting cycle ends in Error with every phase off and the software break asserted, and writes nothing that a later uop
of the cycle would: no compare value, nothing of the estimator, the motor parameters, commissioning, the controller or the
modulator. What it may write are the registers of the common sequence, the fault's own fields and the outputs
(44_state_machine.md R291, R293, 60_exceptions.md R402, R404). -/
def Obligations.FaultingCycleIsPrecise : Prop :=
  ∀ (s t : State) (hwbrk : BitVec 1) (probe : BitVec 4) (hall : BitVec 3) (ia ib ic vbus : Half), s.Inv →
    exec (.tick hwbrk probe hall ia ib ic vbus) s = .next t → faultBetween s t = true →
      t.ctl.status.opstate = .error ∧ t.ctl.code ≠ .none ∧ t.foc.phaseEn = ⟨false, false, false⟩ ∧
      t.ctl.status.swBrk = true ∧ t.foc.ccr = s.foc.ccr ∧ t.est = s.est ∧ t.mot = s.mot ∧ t.com = s.com ∧
      t.foc.vd = s.foc.vd ∧ t.foc.vq = s.foc.vq ∧ t.foc.intD = s.foc.intD ∧ t.foc.intQ = s.foc.intQ ∧
      t.foc.piCnt = s.foc.piCnt ∧ t.foc.sin = s.foc.sin ∧ t.foc.cos = s.foc.cos ∧ t.foc.vAlpha = s.foc.vAlpha ∧
      t.foc.vBeta = s.foc.vBeta ∧ t.foc.vph = s.foc.vph ∧ t.ctl.lastHall = s.ctl.lastHall ∧
      t.ctl.status =
        { s.ctl.status with
          opstate := .error
          faultLatched := true
          swBrk := true
          hwBrk := t.ctl.status.hwBrk
          warmupDone := t.ctl.status.warmupDone
          clarkVar := t.ctl.status.clarkVar } ∧
      RegsFixedBut
        [.status, .fault, .fraw 0, .fraw 1, .fraw 2, .fraw 3, .hallio, .raw 0, .raw 1, .raw 2, .raw 3, .phys 0, .phys 1,
          .phys 2, .phys 3, .warmupCnt, .wsum 0, .wsum 1, .wsum 2, .offset 0, .offset 1, .offset 2, .iAlpha, .iBeta, .iD,
          .iQ, .idReq, .iqReq, .phaseEn] s t

/-- FRAW changes only in the cycle that latches OverLimit, and then to that cycle's raw samples; FAULT_RESET keeps it
(41_protection.md R202). -/
def Obligations.SnapshotOnlyOnOverLimit : Prop :=
  ∀ (i : Instr) (s t : State), exec i s = .next t → i ≠ .reset → t.ctl.fraw ≠ s.ctl.fraw →
    t.ctl.fraw = t.pipe.raw ∧ t.ctl.code = .overLimit ∧ faultBetween s t = true ∧
      ((∃ hwbrk probe hall ia ib ic vbus, i = .tick hwbrk probe hall ia ib ic vbus) ∨ i = .protect)

/-- In Error a TICK stays in Error with the phases off and the software break asserted, keeps the fault code, and runs
neither estimator nor controller nor modulator: beside the registers the common sequence writes (STATUS's HW_BRK and
CLARK_VAR among them) no register changes. The supervisor keeps counting, and the references stay where nothing violates
(44_state_machine.md R291, R300, 41_protection.md R201, 60_exceptions.md R403). -/
def Obligations.ErrorCycleOnlyBreaks : Prop :=
  ∀ (s : State) (hwbrk : BitVec 1) (probe : BitVec 4) (hall : BitVec 3) (ia ib ic vbus : Half), s.Inv →
    s.ctl.status.opstate = .error →
      ∃ t, exec (.tick hwbrk probe hall ia ib ic vbus) s = .next t ∧ t.ctl.status.opstate = .error ∧
        t.ctl.code = s.ctl.code ∧ t.ctl.fraw = s.ctl.fraw ∧ t.foc.phaseEn = ⟨false, false, false⟩ ∧
        t.ctl.status.swBrk = true ∧ t.foc.ccr = s.foc.ccr ∧ t.est = s.est ∧ t.mot = s.mot ∧ t.com = s.com ∧
        (t.ctl.violCnt = 0 ∨ t.ctl.violCnt.toNat = min (s.ctl.violCnt.toNat + 1) 255) ∧
        t.foc.vd = s.foc.vd ∧ t.foc.vq = s.foc.vq ∧ t.foc.intD = s.foc.intD ∧ t.foc.intQ = s.foc.intQ ∧
        t.foc.piCnt = s.foc.piCnt ∧ t.foc.sin = s.foc.sin ∧ t.foc.cos = s.foc.cos ∧ t.foc.vAlpha = s.foc.vAlpha ∧
        t.foc.vBeta = s.foc.vBeta ∧ t.foc.vph = s.foc.vph ∧
        t.ctl.status =
          { s.ctl.status with hwBrk := t.ctl.status.hwBrk, clarkVar := t.ctl.status.clarkVar } ∧
        t.ctl.lastHall = s.ctl.lastHall ∧
        (t.ctl.violCnt = 0 → t.foc.idReq = s.foc.idReq ∧ t.foc.iqReq = s.foc.iqReq) ∧
        RegsFixedBut
          [.status, .fault, .hallio, .raw 0, .raw 1, .raw 2, .raw 3, .phys 0, .phys 1, .phys 2, .phys 3, .iAlpha, .iBeta,
            .iD, .iQ, .idReq, .iqReq] s t

/-- A cycle writes no configuration register, and no current offset once warm-up is done or outside Idle
(10_state.md R48, 20_memory.md R115, 70_reset_and_hazards.md R456). -/
def Obligations.CyclesKeepConfiguration : Prop :=
  ∀ (s t : State) (hwbrk : BitVec 1) (probe : BitVec 4) (hall : BitVec 3) (ia ib ic vbus : Half),
    exec (.tick hwbrk probe hall ia ib ic vbus) s = .next t →
      (∀ r ∈ Reg.hostOnly, r.read t = r.read s) ∧
      (s.ctl.status.warmupDone = true ∨ s.ctl.status.opstate ≠ .idle → t.pipe.offset = s.pipe.offset)

/-- The outputs change only at the end of a cycle: RD, WR and CLEAR_DIRTY leave them alone, and FAULT_RESET can only lower
the software break (70_reset_and_hazards.md R464). -/
def Obligations.OutputsChangeOnlyInCycles : Prop :=
  ∀ (i : Instr) (s t : State), exec i s = .next t → isTransaction i = true → i.wellFormed = true → i ≠ .reset →
    (∀ hwbrk probe hall ia ib ic vbus, i ≠ .tick hwbrk probe hall ia ib ic vbus) →
      t.outCcr = s.outCcr ∧ t.outEn = s.outEn ∧
      (t.outSwbrk = s.outSwbrk ∨ ((∃ clr ign, i = .faultReset clr ign) ∧ t.outSwbrk = false))

/-! ## The reference host -/

/-- A slow-loop step with no other agent between its transactions ends with the three writes and no other register changed
(46_host_interface.md R385, R390): VAB_TO_PWM is the gain of R386, ID_REQ the field-weakening current of R388, and IQ_REQ
the throttle's current of R387 under the power ceiling of R389. The spec marks the formulas of R386 and R389 "[from general
knowledge, not in source]". The host as functions is log entry 24; `q` is the free sign and payload of each NaN (log
entry 5). -/
def Obligations.SlowLoopWritesReferences : Prop :=
  ∀ (s : State) (h : SlowHost) (q : Nat → BitVec 23), s.resetSeen = true →
    ∃ (h' : SlowHost) (t : State), (slowLoop q h).run s = some (h', t) ∧
      h'.vabToPwm =
        (if F32.gt s.pipe.phys.vbus 0 then F32.div (q 0) (F32.ofNat s.ctl.pwmFull.toNat) s.pipe.phys.vbus
          else h.vabToPwm) ∧
      t.ctl.vabToPwm = h'.vabToPwm ∧ RegsFixedBut [.vabToPwm, .idReq, .iqReq] s t ∧
      (let iq : Word :=
        if F32.gt h.throttle h.thrDb then
          F32.clampf (F32.mul (q 2) h.thrK (F32.sub (q 1) h.throttle h.thrDb)) 0 s.mot.iMax
        else 0
       let thr := F32.mul (q 3) 0x3F4CCCCD s.foc.vqMax
       let m := if F32.lt s.foc.vq 0 then F32.neg s.foc.vq else s.foc.vq
       let id : Word := if F32.gt m thr then F32.neg (F32.mul (q 5) h.fwK (F32.sub (q 4) m thr)) else 0
       let p := F32.mul (q 9) 0x3FC00000 (F32.add (q 8) (F32.mul (q 6) s.foc.vd id) (F32.mul (q 7) s.foc.vq iq))
       t.foc.idReq = id ∧ t.foc.iqReq = if F32.gt p h.pMax then F32.mul (q 11) iq (F32.div (q 10) h.pMax p) else iq)

/-- What the storage saves from one state and loads into another gives that other the first one's Hall table and motor
parameters, with PARAMS_VALID set (46_host_interface.md R392). The host as functions is log entry 24. -/
def Obligations.StorageRoundTrip : Prop :=
  ∀ (s u : State) (run : Bool), s.resetSeen = true → u.resetSeen = true → s.ctl.status.dirty = true →
    ∃ (block : List Word) (t v : State),
      storageSave.run s = some (some block, t) ∧ block.length = 15 ∧ t.ctl.status.dirty = false ∧
      (storageLoad block run).run u = some ((), v) ∧ v.mot.ht = s.mot.ht ∧ v.mot.rPhase = s.mot.rPhase ∧
      v.mot.lPhase = s.mot.lPhase ∧ v.mot.fluxLink = s.mot.fluxLink ∧ v.ctl.paramsValid = true ∧ v.ctl.run = run

end
end

