-- ==== Sys2Proof/Laws/State.lean ====
section
/-! SUPPORT. What each group update leaves alone and what it changes: one lemma per field per update, so that no later
proof unfolds a record update. -/

namespace Sys2Proof.Machine

@[simp] theorem State.onCtl_resetSeen (s : State) (f : Ctl → Ctl) : (s.onCtl f).resetSeen = s.resetSeen := rfl
@[simp] theorem State.onCtl_ctl (s : State) (f : Ctl → Ctl) : (s.onCtl f).ctl = f s.ctl := rfl
@[simp] theorem State.onCtl_pipe (s : State) (f : Ctl → Ctl) : (s.onCtl f).pipe = s.pipe := rfl
@[simp] theorem State.onCtl_foc (s : State) (f : Ctl → Ctl) : (s.onCtl f).foc = s.foc := rfl
@[simp] theorem State.onCtl_est (s : State) (f : Ctl → Ctl) : (s.onCtl f).est = s.est := rfl
@[simp] theorem State.onCtl_mot (s : State) (f : Ctl → Ctl) : (s.onCtl f).mot = s.mot := rfl
@[simp] theorem State.onCtl_com (s : State) (f : Ctl → Ctl) : (s.onCtl f).com = s.com := rfl
@[simp] theorem State.onCtl_cyc (s : State) (f : Ctl → Ctl) : (s.onCtl f).cyc = s.cyc := rfl
@[simp] theorem State.onCtl_draws (s : State) (f : Ctl → Ctl) : (s.onCtl f).draws = s.draws := rfl
@[simp] theorem State.onCtl_stream (s : State) (f : Ctl → Ctl) : (s.onCtl f).stream = s.stream := rfl
@[simp] theorem State.onCtl_responses (s : State) (f : Ctl → Ctl) : (s.onCtl f).responses = s.responses := rfl

@[simp] theorem State.onPipe_resetSeen (s : State) (f : Pipe → Pipe) : (s.onPipe f).resetSeen = s.resetSeen := rfl
@[simp] theorem State.onPipe_ctl (s : State) (f : Pipe → Pipe) : (s.onPipe f).ctl = s.ctl := rfl
@[simp] theorem State.onPipe_pipe (s : State) (f : Pipe → Pipe) : (s.onPipe f).pipe = f s.pipe := rfl
@[simp] theorem State.onPipe_foc (s : State) (f : Pipe → Pipe) : (s.onPipe f).foc = s.foc := rfl
@[simp] theorem State.onPipe_est (s : State) (f : Pipe → Pipe) : (s.onPipe f).est = s.est := rfl
@[simp] theorem State.onPipe_mot (s : State) (f : Pipe → Pipe) : (s.onPipe f).mot = s.mot := rfl
@[simp] theorem State.onPipe_com (s : State) (f : Pipe → Pipe) : (s.onPipe f).com = s.com := rfl
@[simp] theorem State.onPipe_cyc (s : State) (f : Pipe → Pipe) : (s.onPipe f).cyc = s.cyc := rfl
@[simp] theorem State.onPipe_draws (s : State) (f : Pipe → Pipe) : (s.onPipe f).draws = s.draws := rfl
@[simp] theorem State.onPipe_stream (s : State) (f : Pipe → Pipe) : (s.onPipe f).stream = s.stream := rfl
@[simp] theorem State.onPipe_responses (s : State) (f : Pipe → Pipe) : (s.onPipe f).responses = s.responses := rfl

@[simp] theorem State.onFoc_resetSeen (s : State) (f : Foc → Foc) : (s.onFoc f).resetSeen = s.resetSeen := rfl
@[simp] theorem State.onFoc_ctl (s : State) (f : Foc → Foc) : (s.onFoc f).ctl = s.ctl := rfl
@[simp] theorem State.onFoc_pipe (s : State) (f : Foc → Foc) : (s.onFoc f).pipe = s.pipe := rfl
@[simp] theorem State.onFoc_foc (s : State) (f : Foc → Foc) : (s.onFoc f).foc = f s.foc := rfl
@[simp] theorem State.onFoc_est (s : State) (f : Foc → Foc) : (s.onFoc f).est = s.est := rfl
@[simp] theorem State.onFoc_mot (s : State) (f : Foc → Foc) : (s.onFoc f).mot = s.mot := rfl
@[simp] theorem State.onFoc_com (s : State) (f : Foc → Foc) : (s.onFoc f).com = s.com := rfl
@[simp] theorem State.onFoc_cyc (s : State) (f : Foc → Foc) : (s.onFoc f).cyc = s.cyc := rfl
@[simp] theorem State.onFoc_draws (s : State) (f : Foc → Foc) : (s.onFoc f).draws = s.draws := rfl
@[simp] theorem State.onFoc_stream (s : State) (f : Foc → Foc) : (s.onFoc f).stream = s.stream := rfl
@[simp] theorem State.onFoc_responses (s : State) (f : Foc → Foc) : (s.onFoc f).responses = s.responses := rfl

@[simp] theorem State.onEst_resetSeen (s : State) (f : Est → Est) : (s.onEst f).resetSeen = s.resetSeen := rfl
@[simp] theorem State.onEst_ctl (s : State) (f : Est → Est) : (s.onEst f).ctl = s.ctl := rfl
@[simp] theorem State.onEst_pipe (s : State) (f : Est → Est) : (s.onEst f).pipe = s.pipe := rfl
@[simp] theorem State.onEst_foc (s : State) (f : Est → Est) : (s.onEst f).foc = s.foc := rfl
@[simp] theorem State.onEst_est (s : State) (f : Est → Est) : (s.onEst f).est = f s.est := rfl
@[simp] theorem State.onEst_mot (s : State) (f : Est → Est) : (s.onEst f).mot = s.mot := rfl
@[simp] theorem State.onEst_com (s : State) (f : Est → Est) : (s.onEst f).com = s.com := rfl
@[simp] theorem State.onEst_cyc (s : State) (f : Est → Est) : (s.onEst f).cyc = s.cyc := rfl
@[simp] theorem State.onEst_draws (s : State) (f : Est → Est) : (s.onEst f).draws = s.draws := rfl
@[simp] theorem State.onEst_stream (s : State) (f : Est → Est) : (s.onEst f).stream = s.stream := rfl
@[simp] theorem State.onEst_responses (s : State) (f : Est → Est) : (s.onEst f).responses = s.responses := rfl

@[simp] theorem State.onMot_resetSeen (s : State) (f : Mot → Mot) : (s.onMot f).resetSeen = s.resetSeen := rfl
@[simp] theorem State.onMot_ctl (s : State) (f : Mot → Mot) : (s.onMot f).ctl = s.ctl := rfl
@[simp] theorem State.onMot_pipe (s : State) (f : Mot → Mot) : (s.onMot f).pipe = s.pipe := rfl
@[simp] theorem State.onMot_foc (s : State) (f : Mot → Mot) : (s.onMot f).foc = s.foc := rfl
@[simp] theorem State.onMot_est (s : State) (f : Mot → Mot) : (s.onMot f).est = s.est := rfl
@[simp] theorem State.onMot_mot (s : State) (f : Mot → Mot) : (s.onMot f).mot = f s.mot := rfl
@[simp] theorem State.onMot_com (s : State) (f : Mot → Mot) : (s.onMot f).com = s.com := rfl
@[simp] theorem State.onMot_cyc (s : State) (f : Mot → Mot) : (s.onMot f).cyc = s.cyc := rfl
@[simp] theorem State.onMot_draws (s : State) (f : Mot → Mot) : (s.onMot f).draws = s.draws := rfl
@[simp] theorem State.onMot_stream (s : State) (f : Mot → Mot) : (s.onMot f).stream = s.stream := rfl
@[simp] theorem State.onMot_responses (s : State) (f : Mot → Mot) : (s.onMot f).responses = s.responses := rfl

@[simp] theorem State.onCom_resetSeen (s : State) (f : Com → Com) : (s.onCom f).resetSeen = s.resetSeen := rfl
@[simp] theorem State.onCom_ctl (s : State) (f : Com → Com) : (s.onCom f).ctl = s.ctl := rfl
@[simp] theorem State.onCom_pipe (s : State) (f : Com → Com) : (s.onCom f).pipe = s.pipe := rfl
@[simp] theorem State.onCom_foc (s : State) (f : Com → Com) : (s.onCom f).foc = s.foc := rfl
@[simp] theorem State.onCom_est (s : State) (f : Com → Com) : (s.onCom f).est = s.est := rfl
@[simp] theorem State.onCom_mot (s : State) (f : Com → Com) : (s.onCom f).mot = s.mot := rfl
@[simp] theorem State.onCom_com (s : State) (f : Com → Com) : (s.onCom f).com = f s.com := rfl
@[simp] theorem State.onCom_cyc (s : State) (f : Com → Com) : (s.onCom f).cyc = s.cyc := rfl
@[simp] theorem State.onCom_draws (s : State) (f : Com → Com) : (s.onCom f).draws = s.draws := rfl
@[simp] theorem State.onCom_stream (s : State) (f : Com → Com) : (s.onCom f).stream = s.stream := rfl
@[simp] theorem State.onCom_responses (s : State) (f : Com → Com) : (s.onCom f).responses = s.responses := rfl

@[simp] theorem State.onCyc_resetSeen (s : State) (f : Cyc → Cyc) : (s.onCyc f).resetSeen = s.resetSeen := rfl
@[simp] theorem State.onCyc_ctl (s : State) (f : Cyc → Cyc) : (s.onCyc f).ctl = s.ctl := rfl
@[simp] theorem State.onCyc_pipe (s : State) (f : Cyc → Cyc) : (s.onCyc f).pipe = s.pipe := rfl
@[simp] theorem State.onCyc_foc (s : State) (f : Cyc → Cyc) : (s.onCyc f).foc = s.foc := rfl
@[simp] theorem State.onCyc_est (s : State) (f : Cyc → Cyc) : (s.onCyc f).est = s.est := rfl
@[simp] theorem State.onCyc_mot (s : State) (f : Cyc → Cyc) : (s.onCyc f).mot = s.mot := rfl
@[simp] theorem State.onCyc_com (s : State) (f : Cyc → Cyc) : (s.onCyc f).com = s.com := rfl
@[simp] theorem State.onCyc_cyc (s : State) (f : Cyc → Cyc) : (s.onCyc f).cyc = f s.cyc := rfl
@[simp] theorem State.onCyc_draws (s : State) (f : Cyc → Cyc) : (s.onCyc f).draws = s.draws := rfl
@[simp] theorem State.onCyc_stream (s : State) (f : Cyc → Cyc) : (s.onCyc f).stream = s.stream := rfl
@[simp] theorem State.onCyc_responses (s : State) (f : Cyc → Cyc) : (s.onCyc f).responses = s.responses := rfl

@[simp] theorem State.drawn_resetSeen (s : State) : s.drawn.resetSeen = s.resetSeen := rfl
@[simp] theorem State.drawn_ctl (s : State) : s.drawn.ctl = s.ctl := rfl
@[simp] theorem State.drawn_pipe (s : State) : s.drawn.pipe = s.pipe := rfl
@[simp] theorem State.drawn_foc (s : State) : s.drawn.foc = s.foc := rfl
@[simp] theorem State.drawn_est (s : State) : s.drawn.est = s.est := rfl
@[simp] theorem State.drawn_mot (s : State) : s.drawn.mot = s.mot := rfl
@[simp] theorem State.drawn_com (s : State) : s.drawn.com = s.com := rfl
@[simp] theorem State.drawn_cyc (s : State) : s.drawn.cyc = s.cyc := rfl
@[simp] theorem State.drawn_draws (s : State) : s.drawn.draws = s.draws + 1 := rfl
@[simp] theorem State.drawn_stream (s : State) : s.drawn.stream = s.stream := rfl
@[simp] theorem State.drawn_responses (s : State) : s.drawn.responses = s.responses := rfl

@[simp] theorem State.respond_resetSeen (s : State) (r : Response) : (s.respond r).resetSeen = s.resetSeen := rfl
@[simp] theorem State.respond_ctl (s : State) (r : Response) : (s.respond r).ctl = s.ctl := rfl
@[simp] theorem State.respond_pipe (s : State) (r : Response) : (s.respond r).pipe = s.pipe := rfl
@[simp] theorem State.respond_foc (s : State) (r : Response) : (s.respond r).foc = s.foc := rfl
@[simp] theorem State.respond_est (s : State) (r : Response) : (s.respond r).est = s.est := rfl
@[simp] theorem State.respond_mot (s : State) (r : Response) : (s.respond r).mot = s.mot := rfl
@[simp] theorem State.respond_com (s : State) (r : Response) : (s.respond r).com = s.com := rfl
@[simp] theorem State.respond_cyc (s : State) (r : Response) : (s.respond r).cyc = s.cyc := rfl
@[simp] theorem State.respond_draws (s : State) (r : Response) : (s.respond r).draws = s.draws := rfl
@[simp] theorem State.respond_stream (s : State) (r : Response) : (s.respond r).stream = s.stream := rfl
@[simp] theorem State.respond_responses (s : State) (r : Response) : (s.respond r).responses = s.responses ++ [r] := rfl

@[simp] theorem State.onStatus_resetSeen (s : State) (f : Status → Status) : (s.onStatus f).resetSeen = s.resetSeen := rfl
@[simp] theorem State.onStatus_ctl (s : State) (f : Status → Status) : (s.onStatus f).ctl = { s.ctl with status := f s.ctl.status } := rfl
@[simp] theorem State.onStatus_pipe (s : State) (f : Status → Status) : (s.onStatus f).pipe = s.pipe := rfl
@[simp] theorem State.onStatus_foc (s : State) (f : Status → Status) : (s.onStatus f).foc = s.foc := rfl
@[simp] theorem State.onStatus_est (s : State) (f : Status → Status) : (s.onStatus f).est = s.est := rfl
@[simp] theorem State.onStatus_mot (s : State) (f : Status → Status) : (s.onStatus f).mot = s.mot := rfl
@[simp] theorem State.onStatus_com (s : State) (f : Status → Status) : (s.onStatus f).com = s.com := rfl
@[simp] theorem State.onStatus_cyc (s : State) (f : Status → Status) : (s.onStatus f).cyc = s.cyc := rfl
@[simp] theorem State.onStatus_draws (s : State) (f : Status → Status) : (s.onStatus f).draws = s.draws := rfl
@[simp] theorem State.onStatus_stream (s : State) (f : Status → Status) : (s.onStatus f).stream = s.stream := rfl
@[simp] theorem State.onStatus_responses (s : State) (f : Status → Status) : (s.onStatus f).responses = s.responses := rfl

@[simp] theorem State.goto_resetSeen (s : State) (st : OpState) : (s.goto st).resetSeen = s.resetSeen := rfl
@[simp] theorem State.goto_ctl (s : State) (st : OpState) : (s.goto st).ctl = { s.ctl with status := { s.ctl.status with opstate := st } } := rfl
@[simp] theorem State.goto_pipe (s : State) (st : OpState) : (s.goto st).pipe = s.pipe := rfl
@[simp] theorem State.goto_foc (s : State) (st : OpState) : (s.goto st).foc = s.foc := rfl
@[simp] theorem State.goto_est (s : State) (st : OpState) : (s.goto st).est = s.est := rfl
@[simp] theorem State.goto_mot (s : State) (st : OpState) : (s.goto st).mot = s.mot := rfl
@[simp] theorem State.goto_com (s : State) (st : OpState) : (s.goto st).com = s.com := rfl
@[simp] theorem State.goto_cyc (s : State) (st : OpState) : (s.goto st).cyc = s.cyc := rfl
@[simp] theorem State.goto_draws (s : State) (st : OpState) : (s.goto st).draws = s.draws := rfl
@[simp] theorem State.goto_stream (s : State) (st : OpState) : (s.goto st).stream = s.stream := rfl
@[simp] theorem State.goto_responses (s : State) (st : OpState) : (s.goto st).responses = s.responses := rfl

/-! Reading a bank that was built or changed. -/

@[simp] theorem Chan.get_ofFn {α : Type} (f : Fin 4 → α) (k : Fin 4) : (Chan.ofFn f).get k = f k := by
  fin_cases k <;> rfl

@[simp] theorem Phase.get_ofFn {α : Type} (f : Fin 3 → α) (k : Fin 3) : (Phase.ofFn f).get k = f k := by
  fin_cases k <;> rfl

@[simp] theorem Sector.get_ofFn {α : Type} (f : Fin 6 → α) (k : Fin 6) : (Sector.ofFn f).get k = f k := by
  fin_cases k <;> rfl

@[simp] theorem Chan.get_set {α : Type} (x : Chan α) (k j : Fin 4) (v : α) :
    (x.set k v).get j = if j = k then v else x.get j := by
  simp [Chan.set]

@[simp] theorem Sector.get_set {α : Type} (x : Sector α) (k j : Fin 6) (v : α) :
    (x.set k v).get j = if j = k then v else x.get j := by
  simp [Sector.set]

@[simp] theorem Chan.get_all {α : Type} (x : α) (k : Fin 4) : (Chan.all x).get k = x := by
  fin_cases k <;> rfl

@[simp] theorem Phase.get_all {α : Type} (x : α) (k : Fin 3) : (Phase.all x).get k = x := by
  fin_cases k <;> rfl

@[simp] theorem Sector.get_all {α : Type} (x : α) (k : Fin 6) : (Sector.all x).get k = x := by
  fin_cases k <;> rfl

end Sys2Proof.Machine
end

