-- ==== Sys2Proof/Laws/Uops.lean ====
section
/-! SUPPORT. What each micro-operation does to the control part of the state (mode, fault latch, enables, counters the
invariant speaks of), and that none touches the run's records. Provers cite these instead of unfolding a meaning. -/

namespace Sys2Proof.Machine

/-- The part of the state that decides what runs next and what the invariant speaks of. -/
structure Control where
  opstate : OpState
  subphase : SubPhase
  latched : Bool
  swBrk : Bool
  warmupDone : Bool
  htValid : Bool
  code : FaultCode
  violCnt : Byte
  phaseEn : Phase Bool
  warmupCnt : Half
  wsum : Phase Word
  lastHall : BitVec 3
  deriving DecidableEq

/-- A state's control part. -/
def State.control (s : State) : Control where
  opstate := s.ctl.status.opstate
  subphase := s.ctl.status.subphase
  latched := s.ctl.status.faultLatched
  swBrk := s.ctl.status.swBrk
  warmupDone := s.ctl.status.warmupDone
  htValid := s.ctl.status.htValid
  code := s.ctl.code
  violCnt := s.ctl.violCnt
  phaseEn := s.foc.phaseEn
  warmupCnt := s.pipe.warmupCnt
  wsum := s.pipe.wsum
  lastHall := s.ctl.lastHall

/-! ## Uops that leave the control part alone -/

@[simp] theorem uopSample_control (s : State) : (uopSample s).control = s.control := rfl
@[simp] theorem uopConvert_control (s : State) : (uopConvert s).control = s.control := rfl
@[simp] theorem uopClark3_control (s : State) : (uopClark3 s).control = s.control := rfl
@[simp] theorem uopClark2Xa_control (s : State) : (uopClark2Xa s).control = s.control := rfl
@[simp] theorem uopClark2Xb_control (s : State) : (uopClark2Xb s).control = s.control := rfl
@[simp] theorem uopClark2Xc_control (s : State) : (uopClark2Xc s).control = s.control := rfl
@[simp] theorem uopPark_control (s : State) : (uopPark s).control = s.control := rfl
@[simp] theorem uopSincos_control (s : State) : (uopSincos s).control = s.control := rfl
@[simp] theorem uopFlux_control (s : State) : (uopFlux s).control = s.control := rfl
@[simp] theorem uopInvpark_control (s : State) : (uopInvpark s).control = s.control := rfl
@[simp] theorem uopInvclark_control (s : State) : (uopInvclark s).control = s.control := rfl
@[simp] theorem uopSvpwm_control (s : State) : (uopSvpwm s).control = s.control := rfl
@[simp] theorem uopGaincalc_control (s : State) : (uopGaincalc s).control = s.control := rfl
@[simp] theorem uopInject_control (s : State) : (uopInject s).control = s.control := rfl

@[simp] theorem uopClarksel_control (s : State) : (uopClarksel s).control = s.control := by
  unfold uopClarksel
  cases clarkChoice s.foc.ccr s.ctl.clarkSat <;> rfl

@[simp] theorem trackTimeout_control (s : State) : (trackTimeout s).control = s.control := by
  unfold trackTimeout
  split <;> rfl

@[simp] theorem uopTrack_control (s : State) : (uopTrack s).control = s.control := by
  have drop (t : State) : ((t.onCyc fun x => { x with hallEvt := none, fluxEvt := none }).drawn).control = t.control :=
    rfl
  unfold uopTrack
  rw [drop, trackTimeout_control]
  cases s.eventIn <;> rfl

@[simp] theorem uopPi_control (s : State) : (uopPi s).control = s.control := by
  unfold uopPi
  dsimp only
  split <;> rfl

/-! ## Uops that change it -/

@[simp] theorem uopPwmout_control (s : State) :
    (uopPwmout s).control = { s.control with phaseEn := Phase.all true } := rfl

@[simp] theorem uopOutoff_control (s : State) :
    (uopOutoff s).control = { s.control with phaseEn := Phase.all false } := rfl

@[simp] theorem uopBreak_control (s : State) :
    (uopBreak s).control = { s.control with phaseEn := Phase.all false, swBrk := true } := rfl

/-- The control part after a fault is taken: the first code stays, Error, outputs broken (60_exceptions.md R402). -/
theorem raiseFault_control (code : FaultCode) (s : State) :
    (raiseFault code s).control =
      { s.control with
        opstate := .error
        latched := true
        swBrk := true
        code := if s.control.latched then s.control.code else code
        phaseEn := Phase.all false } := by
  unfold raiseFault latchFault
  cases h : s.ctl.status.faultLatched <;> simp [State.control, h, softwareBreak, outputsOff]

/-- The control part after the return from Error (46_host_interface.md R376). -/
theorem leaveError_control (s : State) :
    (leaveError s).control =
      if s.control.opstate = .error then
        { s.control with
          opstate := .detecting, latched := false, swBrk := false, code := .none, violCnt := 0 }
      else s.control := by
  unfold leaveError
  by_cases h : s.ctl.status.opstate = .error <;> simp [State.control, h]

theorem enterHallRun_control (s : State) :
    (enterHallRun s).control = { s.control with opstate := .hallRun, htValid := true } := rfl

theorem enterIdentification_control (s : State) :
    (enterIdentification s).control = { s.control with opstate := .measuring, subphase := .rlP1 } := rfl

theorem enterHallLearning_control (s : State) :
    (enterHallLearning s).control = { s.control with opstate := .measuring, subphase := .hlAlign } := rfl

/-- Everything PROTECT can do to the control part (41_protection.md R201). -/
theorem uopProtect_cases (s : State) :
    (∃ t, uopProtect s = .done t ∧ s.violation = false ∧ t.control = { s.control with violCnt := 0 }) ∨
    (∃ t, uopProtect s = .done t ∧ s.violation = true ∧
      ((satInc s.ctl.violCnt).toNat < 3 ∨ s.control.latched = true) ∧
      t.control = { s.control with violCnt := satInc s.ctl.violCnt }) ∨
    (∃ t, uopProtect s = .raised t ∧ s.violation = true ∧ s.control.latched = false ∧
      t.control =
        { s.control with
          opstate := .error, latched := true, swBrk := true, code := .overLimit
          violCnt := satInc s.ctl.violCnt, phaseEn := Phase.all false }) := by
  unfold uopProtect
  by_cases hv : s.violation = true
  · by_cases hc : Config.violTrip ≤ (satInc s.ctl.violCnt).toNat ∧ s.ctl.status.faultLatched = false
    · refine .inr (.inr ⟨_, by simp only [hv, if_true, hc, and_self]; rfl, hv, hc.2, ?_⟩)
      rw [raiseFault_control]
      simp [State.control, snapshotRaw, scaleReferences, hc.2]
    · refine .inr (.inl ⟨_, by simp only [hv, if_true, if_neg hc]; rfl, hv, ?_, rfl⟩)
      rcases Nat.lt_or_ge (satInc s.ctl.violCnt).toNat 3 with h | h
      · exact .inl h
      · right
        by_contra hl
        exact hc ⟨h, by simpa [State.control] using hl⟩
  · refine .inl ⟨_, by simp only [hv]; rfl, by simpa using hv, rfl⟩

/-- Everything HALL can do to the control part (42_estimator.md R220). -/
theorem uopHall_cases (s : State) :
    (∃ t, uopHall s = .raised t ∧ hallSector s.ctl.hallRaw = none ∧ t = raiseFault (invalidHallCode s.ctl.hallRaw) s) ∨
    (∃ t k, uopHall s = .done t ∧ hallSector s.ctl.hallRaw = some k ∧
      t.control = { s.control with lastHall := s.ctl.hallRaw }) := by
  unfold uopHall
  cases h : hallSector s.ctl.hallRaw with
  | none => exact .inl ⟨_, by simp [h], rfl, rfl⟩
  | some k =>
    right
    by_cases hne : s.ctl.hallRaw = s.ctl.lastHall
    · exact ⟨s, k, by simp only [h]; rw [if_neg (not_not.mpr hne)], rfl, by simp [State.control, hne]⟩
    · exact ⟨_, k, by simp only [h]; rw [if_pos hne], rfl, rfl⟩

/-- Everything DETECT can do (44_state_machine.md R305). -/
theorem uopDetect_cases (s : State) :
    (uopDetect s = .raised (raiseFault .genericHallFault s) ∧ 8 ≤ s.ctl.probe.toNat) ∨
    (uopDetect s = .done (s.goto .sensorlessRun) ∧ (s.ctl.probe.toNat = 6 ∨ s.ctl.probe.toNat = 7)) ∨
    (uopDetect s = .done (s.goto .hallRun) ∧ s.ctl.status.htValid = true ∧ s.ctl.probe.toNat < 6) ∨
    (uopDetect s = .done (enterHallLearning s) ∧ s.ctl.status.htValid = false ∧ s.ctl.probe.toNat < 6) := by
  unfold uopDetect
  dsimp only
  by_cases h8 : 8 ≤ s.ctl.probe.toNat
  · exact .inl ⟨if_pos h8, h8⟩
  · rw [if_neg h8]
    by_cases h6 : s.ctl.probe.toNat = 6 ∨ s.ctl.probe.toNat = 7
    · exact .inr (.inl ⟨if_pos h6, h6⟩)
    · rw [if_neg h6]
      cases hv : s.ctl.status.htValid
      · exact .inr (.inr (.inr ⟨rfl, rfl, by omega⟩))
      · exact .inr (.inr (.inl ⟨rfl, rfl, by omega⟩))

/-- Everything FSM can do (44_state_machine.md R302). -/
theorem uopFsm_cases (s : State) :
    (uopFsm s = s) ∨
    (uopFsm s = enterHallRun s ∧ (s.control.opstate = .idle ∨ s.control.opstate = .measuring)) ∨
    (uopFsm s = enterIdentification s ∧ s.control.opstate = .idle) := by
  unfold uopFsm
  cases h : s.ctl.status.opstate <;> dsimp only <;> (try exact .inl rfl)
  · split
    · split
      · exact .inr (.inl ⟨rfl, .inl h⟩)
      · exact .inr (.inr ⟨rfl, h⟩)
    · exact .inl rfl
  · split
    · exact .inr (.inl ⟨rfl, .inr h⟩)
    · exact .inl rfl

/-- Everything WARMUP can do to the control part (40_signal_pipeline.md R163). -/
theorem uopWarmup_control (s : State) :
    (uopWarmup s).control =
      if s.pipe.warmupCnt.toNat < 1000 then
        { s.control with
          warmupCnt := BitVec.ofNat 16 (s.pipe.warmupCnt.toNat + 1)
          warmupDone := s.control.warmupDone || s.pipe.warmupCnt.toNat + 1 == 1000
          wsum :=
            ⟨s.pipe.wsum.a + s.pipe.raw.ia.setWidth 32, s.pipe.wsum.b + s.pipe.raw.ib.setWidth 32,
              s.pipe.wsum.c + s.pipe.raw.ic.setWidth 32⟩ }
      else s.control := by
  unfold uopWarmup
  by_cases h : s.pipe.warmupCnt.toNat < 1000
  · rw [if_pos h, if_pos (show s.pipe.warmupCnt.toNat < Config.warmupN from h)]
    rfl
  · rw [if_neg h, if_neg (show ¬ s.pipe.warmupCnt.toNat < Config.warmupN from h)]

/-- Everything MEAS_RL can do to the control part (45_commissioning.md R331, R336). -/
theorem uopMeasRl_control (s : State) :
    (∃ sub : SubPhase, (sub = .rlP1 ∨ sub = .rlP2 ∨ sub = .rlL ∨ sub = s.control.subphase) ∧
      (uopMeasRl s).control = { s.control with subphase := sub, phaseEn := ⟨true, true, false⟩ }) ∨
    (uopMeasRl s).control = { s.control with opstate := .detecting, phaseEn := Phase.all false } := by
  unfold uopMeasRl
  dsimp only
  split
  · exact .inl ⟨.rlP1, .inl rfl, rfl⟩
  · split
    · exact .inl ⟨.rlP2, .inr (.inl rfl), rfl⟩
    · split
      · exact .inl ⟨.rlL, .inr (.inr (.inl rfl)), rfl⟩
      · split
        · refine .inl ⟨s.control.subphase, .inr (.inr (.inr rfl)), ?_⟩
          unfold measRipple
          split <;> rfl
        · exact .inr rfl

theorem accumulate_control (h : BitVec 3) (a : Half) (s : State) : (accumulate h a s).control = s.control := by
  unfold accumulate
  split <;> rfl

/-- Everything HL_ALIGN can do to the control part (45_commissioning.md R340). -/
theorem uopHlAlign_control (s : State) :
    (uopHlAlign s).control = s.control ∨ (uopHlAlign s).control = { s.control with subphase := .hlFwd } := by
  unfold uopHlAlign
  dsimp only
  split
  · exact .inr rfl
  · exact .inl rfl

/-- Everything HL_FWD can do to the control part (45_commissioning.md R342). -/
theorem uopHlFwd_control (s : State) :
    (uopHlFwd s).control = s.control ∨ (uopHlFwd s).control = { s.control with subphase := .hlRev } := by
  have h := accumulate_control s.ctl.hallRaw s.est.theta s
  unfold uopHlFwd
  dsimp only
  split
  · right
    rw [← h]
    rfl
  · left
    rw [← h]
    rfl

theorem relearnCenter_control (s : State) : (relearnCenter s).control = s.control := by
  unfold relearnCenter
  split <;> rfl

theorem uopHlFinish_control (s : State) :
    (uopHlFinish s).control = { s.control with opstate := .hallRun, htValid := true } := by
  unfold uopHlFinish
  dsimp only
  have h := relearnCenter_control (s.onMot fun m => { m with ht := Sector.ofFn fun k => learnedEntry (s.com.hl.get k) })
  have step (t : State) :
      ((t.onStatus fun x => { x with htValid := true, dirty := true }).goto .hallRun).control =
        { t.control with opstate := .hallRun, htValid := true } := rfl
  rw [step, h]
  rfl

/-- Everything HL_REV can do to the control part (45_commissioning.md R343). -/
theorem uopHlRev_control (s : State) :
    (uopHlRev s).control = s.control ∨
    (uopHlRev s).control = { s.control with opstate := .hallRun, htValid := true } := by
  have h := accumulate_control s.ctl.hallRaw s.est.theta s
  unfold uopHlRev
  dsimp only
  split
  · right
    rw [uopHlFinish_control, h]
  · left
    rw [← h]
    rfl

end Sys2Proof.Machine
end

