-- ==== Sys2Proof/Machine/Parametric.lean ====
section
/-! DEFINITION. The block for any choice of the model's parameters (00_scope.md R12): `execWith` and `stepWith` take them
as an argument, and at the defaults they are `exec` and `step` (Laws/Cycle.lean, `execWith_default`). -/

namespace Sys2Proof.Machine

/-- The meaning of an instruction under the parameters `P`. -/
def execWith (P : Params) (i : Instr) (s : State) : Host.Outcome State Fault Refusal :=
  match i with
  | .rd addr => afterReset s fun s => .next (hostRead addr s P.sintab)
  | .wr addr data => execWr addr data s
  | .tick hwbrk probe hall ia ib ic vbus =>
    afterReset s fun s => tickWith { raw := ⟨ia, ib, ic, vbus⟩, hall := hall, probe := probe, hwbrk := hwbrk } s P
  | .reset => execReset s
  | .faultReset clr ign => execFaultReset clr ign s
  | .clearDirty ign => execClearDirty ign s
  | .sample => .next (runUop .sample s P).state
  | .convert => .next (runUop .convert s P).state
  | .warmup => .next (runUop .warmup s P).state
  | .clark3 => .next (runUop .clark3 s P).state
  | .clark2Xa => .next (runUop .clark2Xa s P).state
  | .clark2Xb => .next (runUop .clark2Xb s P).state
  | .clark2Xc => .next (runUop .clark2Xc s P).state
  | .park => .next (runUop .park s P).state
  | .protect => .next (runUop .protect s P).state
  | .hall => .next (runUop .hall s P).state
  | .flux => .next (runUop .flux s P).state
  | .track => .next (runUop .track s P).state
  | .sincos => .next (runUop .sincos s P).state
  | .pi => .next (runUop .pi s P).state
  | .invpark => .next (runUop .invpark s P).state
  | .invclark => .next (runUop .invclark s P).state
  | .svpwm => .next (runUop .svpwm s P).state
  | .pwmout => .next (runUop .pwmout s P).state
  | .fsm => .next (runUop .fsm s P).state
  | .measRl => .next (runUop .measRl s P).state
  | .gaincalc => .next (runUop .gaincalc s P).state
  | .hlAlign => .next (runUop .hlAlign s P).state
  | .hlFwd => .next (runUop .hlFwd s P).state
  | .hlRev => .next (runUop .hlRev s P).state
  | .hlFinish => .next (runUop .hlFinish s P).state
  | .inject => .next (runUop .inject s P).state
  | .brk => .next (runUop .brk s P).state
  | .outoff => .next (runUop .outoff s P).state
  | .detect => .next (runUop .detect s P).state
  | .clarksel => .next (runUop .clarksel s P).state

/-- One step under the parameters `P`. -/
def stepWith (P : Params) (s : State) : Host.Outcome State Fault Refusal :=
  match fetch s.stream with
  | .run i rest => execWith P i { s with stream := rest }
  | .wait => .next s
  | .refuse r => .refused r

end Sys2Proof.Machine
end

