-- ==== Sys2Proof/Laws/Cycle.lean ====
section
/-! SUPPORT. What running a micro-operation, a sequence and a cycle can do, said once: the rule for sequences, the run's
own records, and the meaning of a lone micro-operation. Provers cite these instead of unfolding `runFor`. -/

namespace Sys2Proof.Machine

/-- A lone micro-operation is the cycle's micro-operation (30_encoding.md R143; log entry 3). -/
theorem exec_uopInstr (u : Uop) (s : State) : exec (uopInstr u) s = .next (runUop u s).state := by
  cases u <;> rfl

/-! ## The parameters at their defaults (00_scope.md R12) -/

/-- At the defaults a meaning under parameters is the block's. -/
theorem execWith_default (i : Instr) (s : State) : execWith Params.default i s = exec i s := by
  cases i <;> rfl

/-- At the defaults a step under parameters is the block's. -/
theorem stepWith_default (s : State) : stepWith Params.default s = step s := by
  unfold stepWith step
  cases fetch s.stream <;> rfl

/-! ## The run's own records -/

theorem RunFixed.refl (s : State) : RunFixed s s := ⟨rfl, rfl, rfl⟩

theorem RunFixed.trans {s t u : State} (h : RunFixed s t) (g : RunFixed t u) : RunFixed s u :=
  ⟨g.1.trans h.1, g.2.1.trans h.2.1, g.2.2.trans h.2.2⟩

theorem latchFault_records (code : FaultCode) (s : State) : RunFixed s (latchFault code s) := by
  unfold latchFault
  split <;> exact ⟨rfl, rfl, rfl⟩

theorem raiseFault_records (code : FaultCode) (s : State) : RunFixed s (raiseFault code s) :=
  (latchFault_records code s).trans ⟨rfl, rfl, rfl⟩

theorem uopProtect_records (s : State) : RunFixed s (uopProtect s).state := by
  unfold uopProtect
  dsimp only
  split
  · split
    · exact RunFixed.trans ⟨rfl, rfl, rfl⟩ (raiseFault_records _ _)
    · exact ⟨rfl, rfl, rfl⟩
  · exact ⟨rfl, rfl, rfl⟩

theorem uopHall_records (s : State) : RunFixed s (uopHall s).state := by
  unfold uopHall
  dsimp only
  split
  · exact raiseFault_records _ _
  · split <;> exact ⟨rfl, rfl, rfl⟩

theorem uopDetect_records (s : State) : RunFixed s (uopDetect s).state := by
  obtain ⟨h, -⟩ | ⟨h, -⟩ | ⟨h, -⟩ | ⟨h, -⟩ := uopDetect_cases s <;> rw [h]
  · exact raiseFault_records _ _
  all_goals exact ⟨rfl, rfl, rfl⟩

theorem uopFsm_records (s : State) : RunFixed s (uopFsm s) := by
  obtain h | ⟨h, -⟩ | ⟨h, -⟩ := uopFsm_cases s <;> rw [h] <;> exact ⟨rfl, rfl, rfl⟩

theorem uopWarmup_records (s : State) : RunFixed s (uopWarmup s) := by
  unfold uopWarmup
  split <;> exact ⟨rfl, rfl, rfl⟩

theorem uopClarksel_records (s : State) : RunFixed s (uopClarksel s) := by
  unfold uopClarksel
  cases clarkChoice s.foc.ccr s.ctl.clarkSat <;> exact ⟨rfl, rfl, rfl⟩

theorem trackTimeout_records (s : State) : RunFixed s (trackTimeout s) := by
  unfold trackTimeout
  split <;> exact ⟨rfl, rfl, rfl⟩

theorem trackEvent_records (e : Evt) (cnt : Word) (s : State) : RunFixed s (trackEvent e cnt s) := ⟨rfl, rfl, rfl⟩

theorem trackAdvance_records (s : State) : RunFixed s (trackAdvance s) := ⟨rfl, rfl, rfl⟩

theorem uopTrack_records (s : State) : RunFixed s (uopTrack s) := by
  have drop (t : State) : RunFixed t (t.onCyc fun x => { x with hallEvt := none, fluxEvt := none }).drawn :=
    ⟨rfl, rfl, rfl⟩
  unfold uopTrack
  refine RunFixed.trans ?_ (drop _)
  refine RunFixed.trans ?_ (trackTimeout_records _)
  refine RunFixed.trans ?_ (trackAdvance_records _)
  cases s.eventIn
  · exact ⟨rfl, rfl, rfl⟩
  · exact trackEvent_records _ _ _

theorem uopPi_records (s : State) : RunFixed s (uopPi s) := by
  unfold uopPi
  dsimp only
  split <;> exact ⟨rfl, rfl, rfl⟩

theorem uopMeasRl_records (s : State) : RunFixed s (uopMeasRl s) := by
  unfold uopMeasRl measRipple
  dsimp only
  split_ifs <;> exact ⟨rfl, rfl, rfl⟩

theorem accumulate_records (h : BitVec 3) (a : Half) (s : State) : RunFixed s (accumulate h a s) := by
  unfold accumulate
  split <;> exact ⟨rfl, rfl, rfl⟩

theorem uopHlAlign_records (s : State) : RunFixed s (uopHlAlign s) := by
  unfold uopHlAlign
  dsimp only
  split <;> exact ⟨rfl, rfl, rfl⟩

theorem uopHlFwd_records (s : State) : RunFixed s (uopHlFwd s) := by
  unfold uopHlFwd
  dsimp only
  split <;> exact (accumulate_records _ _ _).trans ⟨rfl, rfl, rfl⟩

theorem uopHlFinish_records (s : State) : RunFixed s (uopHlFinish s) := by
  unfold uopHlFinish relearnCenter
  dsimp only
  split <;> exact ⟨rfl, rfl, rfl⟩

theorem uopHlRev_records (s : State) : RunFixed s (uopHlRev s) := by
  unfold uopHlRev
  dsimp only
  split
  · exact (accumulate_records _ _ _).trans (uopHlFinish_records _)
  · exact (accumulate_records _ _ _).trans ⟨rfl, rfl, rfl⟩

/-- No micro-operation touches the run's records. -/
theorem runUop_records (u : Uop) (s : State) : RunFixed s (runUop u s).state := by
  cases u
  case warmup => exact uopWarmup_records s
  case protect => exact uopProtect_records s
  case hall => exact uopHall_records s
  case track => exact uopTrack_records s
  case pi => exact uopPi_records s
  case fsm => exact uopFsm_records s
  case measRl => exact uopMeasRl_records s
  case hlAlign => exact uopHlAlign_records s
  case hlFwd => exact uopHlFwd_records s
  case hlRev => exact uopHlRev_records s
  case hlFinish => exact uopHlFinish_records s
  case detect => exact uopDetect_records s
  case clarksel => exact uopClarksel_records s
  all_goals exact ⟨rfl, rfl, rfl⟩

/-! ## Sequences -/

/-- The rule for a sequence: if every micro-operation of it (and OUTOFF, which may replace the rest) takes a `P` state to a
`P` state, or raises in an `R` state, then the sequence ends in a `P` state or raises in an `R` state. -/
theorem runFor_rule {P R : State → Prop} (fuel : Nat) (us : List Uop) (s : State)
    (hdone : ∀ u s t, u ∈ us ∨ u = .outoff → P s → runUop u s = .done t → P t)
    (hraised : ∀ u s t, u ∈ us ∨ u = .outoff → P s → runUop u s = .raised t → R t) (hs : P s) :
    (∃ t, runFor fuel us s = .done t ∧ P t) ∨ (∃ t, runFor fuel us s = .raised t ∧ R t) := by
  induction fuel generalizing us s with
  | zero => cases us <;> exact .inl ⟨s, rfl, hs⟩
  | succ fuel ih =>
    cases us with
    | nil => exact .inl ⟨s, rfl, hs⟩
    | cons u us =>
      unfold runFor
      cases h : runUop u s with
      | raised t => exact .inr ⟨t, rfl, hraised u s t (.inl (by simp)) hs h⟩
      | done t =>
        dsimp only
        have ht : P t := hdone u s t (.inl (by simp)) hs h
        have sub (v : Uop) (hv : v ∈ restAfter u s.ctl.status.opstate t.ctl.status.opstate us ∨ v = .outoff) :
            v ∈ u :: us ∨ v = .outoff := by
          unfold restAfter at hv
          split at hv
          · exact .inr (by simpa using hv)
          · exact hv.imp_left fun h => by simp [h]
        exact ih _ t (fun v a b hv => hdone v a b (sub v hv)) (fun v a b hv => hraised v a b (sub v hv)) ht

theorem runSeq_rule {P R : State → Prop} (us : List Uop) (s : State)
    (hdone : ∀ u s t, u ∈ us ∨ u = .outoff → P s → runUop u s = .done t → P t)
    (hraised : ∀ u s t, u ∈ us ∨ u = .outoff → P s → runUop u s = .raised t → R t) (hs : P s) :
    (∃ t, runSeq us s = .done t ∧ P t) ∨ (∃ t, runSeq us s = .raised t ∧ R t) :=
  runFor_rule _ us s hdone hraised hs

/-- What every micro-operation keeps, a sequence keeps. -/
theorem runSeq_keeps {P : State → Prop} (us : List Uop) (s : State)
    (h : ∀ u s, u ∈ us ∨ u = .outoff → P s → P (runUop u s).state) (hs : P s) : P (runSeq us s).state := by
  obtain ⟨t, e, ht⟩ | ⟨t, e, ht⟩ := runSeq_rule (P := P) (R := P) us s
    (fun u s t hu hP e => by simpa [e, UopOut.state] using h u s hu hP)
    (fun u s t hu hP e => by simpa [e, UopOut.state] using h u s hu hP) hs <;> rw [e] <;> exact ht

/-- After the common sequence a cycle runs its state's sequence; with none, it is refused (44_state_machine.md R292, R301;
UNSPEC_STATE_ACTION at its default, 00_scope.md R12). -/
theorem stateAction_default (s : State) : stateAction s = s.seq.map fun us t => runSeq us t := by
  unfold stateAction
  cases s.seq <;> rfl

/-- A state that selects a sequence runs it, whatever UNSPEC_STATE_ACTION is (44_state_machine.md R292). -/
theorem stateAction_of_seq {s : State} {us : List Uop} (h : s.seq = some us) (P : Params) :
    stateAction s P = some fun t => runSeq us t P := by
  simp [stateAction, h]

/-- A placeholder or reserved state runs what UNSPEC_STATE_ACTION says (44_state_machine.md R301). -/
theorem stateAction_of_no_seq {s : State} (h : s.seq = none) (P : Params) :
    stateAction s P = P.unspecStateAction s.ctl.status.opstate s.ctl.status.subphase := by
  simp [stateAction, h]

/-- A cycle's state, from the state its ports are presented in: what every micro-operation keeps, a cycle keeps. -/
theorem fastCycle_keeps {P : State → Prop} {s t : State} (h : ∀ u s, P s → P (runUop u s).state) (hs : P s)
    (ht : fastCycle s = some t) : P t := by
  have hc := runSeq_keeps (commonSeq s) s (fun u s _ => h u s) hs
  unfold fastCycle at ht
  split at ht
  · exact absurd ht (by simp)
  · split at ht
    · rename_i u e
      rw [e] at hc
      exact Option.some.inj ht ▸ hc
    · rename_i u e
      rw [e] at hc
      rw [stateAction_default] at ht
      cases hq : u.seq with
      | none => simp [hq] at ht
      | some us =>
        rw [hq] at ht
        exact Option.some.inj ht ▸ runSeq_keeps us u (fun u s _ => h u s) hc

/-- A cycle touches none of the run's records. -/
theorem fastCycle_records {s t : State} (h : fastCycle s = some t) : RunFixed s t :=
  fastCycle_keeps (P := fun x => RunFixed s x) (fun u _ hx => hx.trans (runUop_records u _)) (RunFixed.refl s) h

/-! ## The control part -/

/-- The part of `State.Inv` that speaks of the control part. -/
structure Control.Legal (c : Control) : Prop where
  executes : executing c.opstate c.subphase = true
  latchedIffError : c.latched = true ↔ c.opstate = .error
  codeIffLatched : c.code ≠ .none ↔ c.latched = true
  breakIffError : c.swBrk = true ↔ c.opstate = .error
  errorIsOff : c.opstate = .error → c.phaseEn = Phase.all false
  violBelowTrip : c.opstate ≠ .error → c.violCnt.toNat < 3
  phasesLegal : c.phaseEn = Phase.all false ∨ c.phaseEn = Phase.all true ∨ c.phaseEn = ⟨true, true, false⟩
  warmupBound : c.warmupCnt.toNat ≤ 1000
  warmupDone : c.warmupDone = true ↔ c.warmupCnt.toNat = 1000
  warmupSums : ∀ k : Fin 3, (c.wsum.get k).toNat ≤ c.warmupCnt.toNat * 65535
  lastHallValid : c.lastHall ≠ 7
  hallRunHasTable : c.opstate = .hallRun → c.htValid = true

/-- The invariant is its control part, a RESET seen and no cycle-local value. -/
theorem State.inv_iff (s : State) : s.Inv ↔ s.resetSeen = true ∧ s.cyc = Cyc.empty ∧ s.control.Legal :=
  ⟨fun h => ⟨h.1, h.2, h.3, h.4, h.5, h.6, h.7, h.8, h.9, h.10, h.11, h.12, h.13, h.14⟩,
    fun ⟨h1, h2, h⟩ => ⟨h1, h2, h.1, h.2, h.3, h.4, h.5, h.6, h.7, h.8, h.9, h.10, h.11, h.12⟩⟩

end Sys2Proof.Machine
end

