-- ==== Sys2Proof/Laws/Float.lean ====
section
/-! SUPPORT. The small laws of the binary32 operations: how a NaN behaves, and the order. -/

namespace Sys2Proof.Machine.F32

theorem toNat_nan (q : BitVec 23) :
    (nan q).toNat = (q.toNat / 2 ^ 22 % 2) * 2 ^ 31 + 511 * 2 ^ 22 + q.toNat % 2 ^ 22 := by
  have hq : q.toNat < 2 ^ 23 := q.isLt
  have h511 : (0x1FF : BitVec 9).toNat = 511 := rfl
  simp only [nan, BitVec.toNat_append, BitVec.extractLsb'_toNat, Nat.shiftRight_zero, h511]
  rw [← Nat.shiftLeft_add_eq_or_of_lt (by omega), ← Nat.shiftLeft_add_eq_or_of_lt (by omega)]
  simp only [Nat.shiftLeft_eq, Nat.shiftRight_eq_div_pow]
  omega

@[simp] theorem isNaN_nan (q : BitVec 23) : isNaN (nan q) = true := by
  have h := toNat_nan q
  have hq : q.toNat < 2 ^ 23 := q.isLt
  simp only [isNaN, expo, frac, Bool.and_eq_true, beq_iff_eq, bne_iff_ne]
  omega

@[simp] theorem isInf_nan (q : BitVec 23) : isInf (nan q) = false := by
  have h := isNaN_nan q
  revert h
  simp only [isNaN, isInf]
  cases expo (nan q) == 255 <;> cases h : frac (nan q) == 0 <;> simp [bne, h]

@[simp] theorem lt_nan_left (q : BitVec 23) (b : Word) : lt (nan q) b = false := by simp [lt]
@[simp] theorem lt_nan_right (a : Word) (q : BitVec 23) : lt a (nan q) = false := by simp [lt]
@[simp] theorem le_nan_left (q : BitVec 23) (b : Word) : le (nan q) b = false := by simp [le]
@[simp] theorem le_nan_right (a : Word) (q : BitVec 23) : le a (nan q) = false := by simp [le]

theorem lt_of_isNaN_left {a : Word} (h : isNaN a = true) (b : Word) : lt a b = false := by simp [lt, h]
theorem lt_of_isNaN_right {b : Word} (h : isNaN b = true) (a : Word) : lt a b = false := by simp [lt, h]

theorem clampf_of_isNaN {v : Word} (h : isNaN v = true) (lo hi : Word) : clampf v lo hi = v := by
  simp [clampf, gt, lt_of_isNaN_left h, lt_of_isNaN_right h]

/-- Outside NaN the order is total. -/
theorem le_of_not_lt {a b : Word} (ha : isNaN a = false) (hb : isNaN b = false) (h : lt a b = false) : le b a = true := by
  simp_all [lt, le]

theorem le_refl_of_not_nan {a : Word} (h : isNaN a = false) : le a a = true := by simp [le, h]

@[simp] theorem neg_neg (a : Word) : neg (neg a) = a := by
  simp [neg]

end Sys2Proof.Machine.F32
end

