-- ==== Sys2Proof/Laws/Invariant.lean ====
section
/-! SUPPORT. What each micro-operation does to the control part of the invariant, and the laws of the named operations:
taking a fault, the return from it, and the responses. -/

namespace Sys2Proof.Machine

open Control

/-- Taking a fault keeps the control part legal (60_exceptions.md R402). -/
theorem legal_raise {c : Control} (h : c.Legal) (code : FaultCode) (hc : code ≠ .none) (v : Byte) :
   Legal { c with opstate := .error, latched := true, swBrk := true, code := if c.latched then c.code else code, phaseEn := Phase.all false, violCnt := v } where
  executes := rfl
  latchedIffError := by simp
  codeIffLatched := by
    simp only [iff_true]
    split
    · exact h.codeIffLatched.mpr ‹_›
    · exact hc
  breakIffError := by simp
  errorIsOff := by simp
  violBelowTrip := by simp
  phasesLegal := by simp
  warmupBound := h.warmupBound
  warmupDone := h.warmupDone
  warmupSums := h.warmupSums
  lastHallValid := h.lastHallValid
  hallRunHasTable := by simp

/-- Changing the enables keeps it legal. -/
theorem legal_phase {c : Control} (h : c.Legal) (p : Phase Bool) (hp : p = Phase.all false ∨ p = Phase.all true ∨ p = ⟨true, true, false⟩) (he : c.opstate = .error → p = Phase.all false) : Legal { c with phaseEn := p } where
  executes := h.executes
  latchedIffError := h.latchedIffError
  codeIffLatched := h.codeIffLatched
  breakIffError := h.breakIffError
  errorIsOff := he
  violBelowTrip := h.violBelowTrip
  phasesLegal := hp
  warmupBound := h.warmupBound
  warmupDone := h.warmupDone
  warmupSums := h.warmupSums
  lastHallValid := h.lastHallValid
  hallRunHasTable := h.hallRunHasTable

/-- A change of state outside Error keeps it legal. -/
theorem legal_move {c : Control} (h : c.Legal) (o : OpState) (sub : SubPhase) (ht : Bool) (hx : executing o sub = true) (ho : o ≠ .error) (hc : c.opstate ≠ .error) (hh : o = .hallRun → ht = true) :
   Legal { c with opstate := o, subphase := sub, htValid := ht } where
  executes := hx
  latchedIffError := by have := h.latchedIffError; simp_all
  codeIffLatched := h.codeIffLatched
  breakIffError := by have := h.breakIffError; simp_all
  errorIsOff := fun e => absurd e ho
  violBelowTrip := fun _ => h.violBelowTrip hc
  phasesLegal := h.phasesLegal
  warmupBound := h.warmupBound
  warmupDone := h.warmupDone
  warmupSums := h.warmupSums
  lastHallValid := h.lastHallValid
  hallRunHasTable := hh

/-- Changing the violation counter keeps it legal. -/
theorem legal_viol {c : Control} (h : c.Legal) (v : Byte) (hv : c.opstate ≠ .error → v.toNat < 3) : Legal { c with violCnt := v } where
  executes := h.executes
  latchedIffError := h.latchedIffError
  codeIffLatched := h.codeIffLatched
  breakIffError := h.breakIffError
  errorIsOff := h.errorIsOff
  violBelowTrip := hv
  phasesLegal := h.phasesLegal
  warmupBound := h.warmupBound
  warmupDone := h.warmupDone
  warmupSums := h.warmupSums
  lastHallValid := h.lastHallValid
  hallRunHasTable := h.hallRunHasTable

/-- `raiseFault` keeps it legal. -/
theorem legal_raiseFault {s : State} (h : s.control.Legal) (code) (hc : code ≠ FaultCode.none) : (raiseFault code s).control.Legal := by
  rw [raiseFault_control]; exact legal_raise h code hc s.control.violCnt

/-- PROTECT keeps it legal (41_protection.md R201). -/
theorem legal_protect {s : State} (h : s.control.Legal) : (uopProtect s).state.control.Legal := by
  obtain ⟨t, e, hv, hc⟩ | ⟨t, e, hv, hd, hc⟩ | ⟨t, e, hv, hl, hc⟩ := uopProtect_cases s <;> rw [e] <;> show t.control.Legal <;> rw [hc]
  · exact legal_viol h 0 (by simp)
  · refine legal_viol h _ (fun hne => ?_)
    rcases hd with hd | hd
    · exact hd
    · exact absurd (h.latchedIffError.mp hd) hne
  · have := legal_raise h .overLimit (by simp) (satInc s.ctl.violCnt)
    rw [hl] at this; exact this

/-- Latching a valid Hall state keeps it legal. -/
theorem legal_lastHall {c : Control} (h : c.Legal) (v : BitVec 3) (hv : v ≠ 7) : Legal { c with lastHall := v } where
  executes := h.executes
  latchedIffError := h.latchedIffError
  codeIffLatched := h.codeIffLatched
  breakIffError := h.breakIffError
  errorIsOff := h.errorIsOff
  violBelowTrip := h.violBelowTrip
  phasesLegal := h.phasesLegal
  warmupBound := h.warmupBound
  warmupDone := h.warmupDone
  warmupSums := h.warmupSums
  lastHallValid := hv
  hallRunHasTable := h.hallRunHasTable

/-- HALL keeps it legal (42_estimator.md R220). -/
theorem legal_hall {s : State} (h : s.control.Legal) : (uopHall s).state.control.Legal := by
  obtain ⟨t, e, hn, rfl⟩ | ⟨t, k, e, hk, hc⟩ := uopHall_cases s <;> rw [e]
  · exact legal_raiseFault h _ (by unfold invalidHallCode; split <;> simp)
  · show t.control.Legal; rw [hc]
    refine legal_lastHall h _ ?_
    intro h7; rw [h7] at hk; simp [hallSector] at hk

/-- WARMUP keeps it legal (40_signal_pipeline.md R163). -/
theorem legal_warmup {s : State} (h : s.control.Legal) : (uopWarmup s).control.Legal := by
  rw [uopWarmup_control]
  split
  · rename_i hlt
    have hn : (BitVec.ofNat 16 (s.pipe.warmupCnt.toNat + 1)).toNat = s.pipe.warmupCnt.toNat + 1 := by
      simp only [BitVec.toNat_ofNat]; omega
    have hd : s.control.warmupDone = false := by
      have := h.warmupDone
      cases hx : s.control.warmupDone
      · rfl
      · have : s.pipe.warmupCnt.toNat = 1000 := this.mp hx
        omega
    exact {
      executes := h.executes
      latchedIffError := h.latchedIffError
      codeIffLatched := h.codeIffLatched
      breakIffError := h.breakIffError
      errorIsOff := h.errorIsOff
      violBelowTrip := h.violBelowTrip
      phasesLegal := h.phasesLegal
      warmupBound := by show BitVec.toNat _ ≤ 1000; rw [hn]; omega
      warmupDone := by simp [hd, hn]
      warmupSums := by
        intro k
        have hk := h.warmupSums k
        have bound : ∀ (w : Word) (r : Half), w.toNat ≤ s.pipe.warmupCnt.toNat * 65535 → (w + r.setWidth 32).toNat ≤ (s.pipe.warmupCnt.toNat + 1) * 65535 := by
          intro w r hw
          have := r.isLt
          rw [BitVec.toNat_add, BitVec.toNat_setWidth, Nat.mod_eq_of_lt (a := r.toNat) (by omega)]
          refine (Nat.mod_le _ _).trans ?_
          omega
        show BitVec.toNat _ ≤ BitVec.toNat _ * 65535
        rw [hn]
        fin_cases k
        · exact bound s.pipe.wsum.a _ hk
        · exact bound s.pipe.wsum.b _ hk
        · exact bound s.pipe.wsum.c _ hk
      lastHallValid := h.lastHallValid
      hallRunHasTable := h.hallRunHasTable }
  · exact h

/-- Outside Error every micro-operation but BREAK ends outside Error, or raises; both ways legal. -/
theorem legal_uop {u : Uop} {s : State} (h : s.control.Legal) (hne : s.control.opstate ≠ .error) (hu : u ≠ .brk) :
    (∃ t, runUop u s = .done t ∧ t.control.Legal ∧ t.control.opstate ≠ .error) ∨ (∃ t, runUop u s = .raised t ∧ t.control.Legal) := by
  have keep : ∀ t : State, t.control = s.control → t.control.Legal ∧ t.control.opstate ≠ .error := by
    intro t ht; rw [ht]; exact ⟨h, hne⟩
  cases u
  case brk => exact absurd rfl hu
  case sample => exact .inl ⟨_, rfl, keep _ (by simp)⟩
  case convert => exact .inl ⟨_, rfl, keep _ (by simp)⟩
  case clark3 => exact .inl ⟨_, rfl, keep _ (by simp)⟩
  case clark2Xa => exact .inl ⟨_, rfl, keep _ (by simp)⟩
  case clark2Xb => exact .inl ⟨_, rfl, keep _ (by simp)⟩
  case clark2Xc => exact .inl ⟨_, rfl, keep _ (by simp)⟩
  case park => exact .inl ⟨_, rfl, keep _ (by simp)⟩
  case flux => exact .inl ⟨_, rfl, keep _ (by simp)⟩
  case track => exact .inl ⟨_, rfl, keep _ (by simp)⟩
  case sincos => exact .inl ⟨_, rfl, keep _ (by simp)⟩
  case pi => exact .inl ⟨_, rfl, keep _ (by simp)⟩
  case invpark => exact .inl ⟨_, rfl, keep _ (by simp)⟩
  case invclark => exact .inl ⟨_, rfl, keep _ (by simp)⟩
  case svpwm => exact .inl ⟨_, rfl, keep _ (by simp)⟩
  case gaincalc => exact .inl ⟨_, rfl, keep _ (by simp)⟩
  case inject => exact .inl ⟨_, rfl, keep _ (by simp)⟩
  case clarksel => exact .inl ⟨_, rfl, keep _ (by simp)⟩
  case warmup =>
    refine .inl ⟨_, rfl, legal_warmup h, ?_⟩
    rw [uopWarmup_control]; split <;> exact hne
  case protect =>
    have hl := legal_protect h
    obtain ⟨t, e, hv, hc⟩ | ⟨t, e, hv, hd, hc⟩ | ⟨t, e, hv, hl', hc⟩ := uopProtect_cases s <;> rw [e] at hl
    · exact .inl ⟨t, e, hl, by rw [hc]; exact hne⟩
    · exact .inl ⟨t, e, hl, by rw [hc]; exact hne⟩
    · exact .inr ⟨t, e, hl⟩
  case hall =>
    have hl := legal_hall h
    obtain ⟨t, e, hn, _⟩ | ⟨t, k, e, hk, hc⟩ := uopHall_cases s <;> rw [e] at hl
    · exact .inr ⟨t, e, hl⟩
    · exact .inl ⟨t, e, hl, by rw [hc]; exact hne⟩
  case pwmout =>
    refine .inl ⟨_, rfl, ?_, by simpa using hne⟩
    rw [uopPwmout_control]; exact legal_phase h _ (by simp) (fun e => absurd e hne)
  case outoff =>
    refine .inl ⟨_, rfl, ?_, by simpa using hne⟩
    rw [uopOutoff_control]; exact legal_phase h _ (by simp) (fun e => rfl)
  case fsm =>
    refine .inl ⟨_, rfl, ?_⟩
    obtain e | ⟨e, ho⟩ | ⟨e, ho⟩ := uopFsm_cases s <;> rw [e]
    · exact ⟨h, hne⟩
    · rw [enterHallRun_control]; exact ⟨legal_move h .hallRun s.control.subphase true rfl (by simp) hne (by simp), by simp⟩
    · rw [enterIdentification_control]; exact ⟨legal_move h .measuring .rlP1 s.control.htValid rfl (by simp) hne (by simp), by simp⟩
  case detect =>
    obtain ⟨e, -⟩ | ⟨e, -⟩ | ⟨e, hv, -⟩ | ⟨e, -⟩ := uopDetect_cases s
    · exact .inr ⟨_, e, legal_raiseFault h _ (by simp)⟩
    · exact .inl ⟨_, e, legal_move h .sensorlessRun s.control.subphase s.control.htValid rfl (by simp) hne (by simp), by show OpState.sensorlessRun ≠ _; simp⟩
    · exact .inl ⟨_, e, legal_move h .hallRun s.control.subphase s.control.htValid rfl (by simp) hne (fun _ => hv), by show OpState.hallRun ≠ _; simp⟩
    · refine .inl ⟨_, e, ?_⟩
      rw [enterHallLearning_control]; exact ⟨legal_move h .measuring .hlAlign s.control.htValid rfl (by simp) hne (by simp), by simp⟩
  case measRl =>
    refine .inl ⟨_, rfl, ?_⟩
    obtain ⟨sub, hs, e⟩ | e := uopMeasRl_control s <;> rw [e]
    · have hx : executing s.control.opstate sub = true := by
        have := h.executes
        rcases hs with rfl | rfl | rfl | rfl <;> first | exact this | (cases ho : s.control.opstate <;> simp_all [executing])
      exact ⟨legal_phase (legal_move h s.control.opstate sub s.control.htValid hx hne hne h.hallRunHasTable) _ (by simp) (fun e => absurd e hne), hne⟩
    · exact ⟨legal_phase (legal_move h .detecting s.control.subphase s.control.htValid rfl (by simp) hne (by simp)) _ (by simp) (by simp), by simp⟩
  case hlAlign =>
    refine .inl ⟨_, rfl, ?_⟩
    obtain e | e := uopHlAlign_control s <;> rw [e]
    · exact ⟨h, hne⟩
    · have hx : executing s.control.opstate .hlFwd = true := by
        have := h.executes
        cases ho : s.control.opstate <;> simp_all [executing]
      exact ⟨legal_move h _ _ _ hx hne hne h.hallRunHasTable, hne⟩
  case hlFwd =>
    refine .inl ⟨_, rfl, ?_⟩
    obtain e | e := uopHlFwd_control s <;> rw [e]
    · exact ⟨h, hne⟩
    · have hx : executing s.control.opstate .hlRev = true := by
        have := h.executes
        cases ho : s.control.opstate <;> simp_all [executing]
      exact ⟨legal_move h _ _ _ hx hne hne h.hallRunHasTable, hne⟩
  case hlFinish =>
    refine .inl ⟨_, rfl, ?_⟩
    rw [uopHlFinish_control]
    exact ⟨legal_move h .hallRun s.control.subphase true rfl (by simp) hne (by simp), by simp⟩
  case hlRev =>
    refine .inl ⟨_, rfl, ?_⟩
    obtain e | e := uopHlRev_control s <;> rw [e]
    · exact ⟨h, hne⟩
    · exact ⟨legal_move h .hallRun s.control.subphase true rfl (by simp) hne (by simp), by simp⟩

/-- The micro-operations that may run in Error (44_state_machine.md R291, R300). -/
def commonUop : Uop → Bool
  | .sample | .convert | .warmup | .clarksel | .park | .protect | .outoff | .brk => true
  | _ => false

/-- In Error the micro-operations of the common sequence and BREAK end in Error, and raise nothing. -/
theorem legal_error {u : Uop} {s : State} (h : s.control.Legal) (he : s.control.opstate = .error) (hu : commonUop u = true) :
    ∃ t, runUop u s = .done t ∧ t.control.Legal ∧ t.control.opstate = .error := by
  have keep : ∀ t : State, t.control = s.control → t.control.Legal ∧ t.control.opstate = .error := by
    intro t ht; rw [ht]; exact ⟨h, he⟩
  cases u <;> (first | (exfalso; revert hu; decide) | skip)
  case sample => exact ⟨_, rfl, keep _ (by simp)⟩
  case convert => exact ⟨_, rfl, keep _ (by simp)⟩
  case park => exact ⟨_, rfl, keep _ (by simp)⟩
  case clarksel => exact ⟨_, rfl, keep _ (by simp)⟩
  case warmup =>
    refine ⟨_, rfl, legal_warmup h, ?_⟩
    rw [uopWarmup_control]; split <;> exact he
  case protect =>
    have hl := legal_protect h
    obtain ⟨t, e, hv, hc⟩ | ⟨t, e, hv, hd, hc⟩ | ⟨t, e, hv, hl', hc⟩ := uopProtect_cases s <;> rw [e] at hl
    · exact ⟨t, e, hl, by rw [hc]; exact he⟩
    · exact ⟨t, e, hl, by rw [hc]; exact he⟩
    · exact absurd (h.latchedIffError.mpr he) (by simp [hl'])
  case outoff =>
    refine ⟨_, rfl, ?_, by simpa using he⟩
    rw [uopOutoff_control]; exact legal_phase h _ (by simp) (fun e => rfl)
  case brk =>
    refine ⟨_, rfl, ?_, by simpa using he⟩
    rw [uopBreak_control]
    have := legal_phase h (Phase.all false) (by simp) (fun e => rfl)
    have hb := h.breakIffError.mpr he
    rw [← hb]; exact this

/-- The common sequence holds none but these, and no BREAK. -/
theorem commonSeq_uops (s : State) : ∀ u, u ∈ commonSeq s ∨ u = .outoff → commonUop u = true ∧ u ≠ .brk := by
  intro u hu
  unfold commonSeq at hu
  split at hu <;> (simp at hu; rcases hu with ((rfl|rfl|rfl|rfl|rfl|rfl)|rfl) <;> simp [commonUop])

/-- Only Error's sequence holds BREAK. -/
theorem stateSeq_no_break (o sub us) (h : stateSeq o sub = some us) (ho : o ≠ .error) : ∀ u, u ∈ us ∨ u = .outoff → u ≠ .brk := by
  intro u hu
  cases o <;> cases sub <;> simp [stateSeq, driveSeq] at h <;> first | exact absurd rfl ho | (subst h; simp at hu; rintro rfl; simp at hu)

/-- An executing state has a sequence. -/
theorem stateSeq_of_executing (o sub) (h : executing o sub = true) : ∃ us, stateSeq o sub = some us := by
  cases o <;> cases sub <;> simp_all [executing, stateSeq]

/-- The responses of the host port change no control part. -/
theorem respond_control (s : State) (r : Response) : (s.respond r).control = s.control := rfl

/-- `raiseFault` leaves Error behind, with the first code, whatever the state it is taken in (60_exceptions.md R402). -/
theorem raiseFault_enters (code : FaultCode) (s : State) : EntersError code s (raiseFault code s) := by
  unfold raiseFault latchFault
  cases h : s.ctl.status.faultLatched <;>
    constructor <;> simp [h, softwareBreak, outputsOff]

/-- What `raiseFault` leaves alone (60_exceptions.md R402, R404). -/
theorem raiseFault_frame (code : FaultCode) (s : State) :
    (raiseFault code s).pipe = s.pipe ∧ (raiseFault code s).est = s.est ∧ (raiseFault code s).mot = s.mot ∧
      (raiseFault code s).com = s.com ∧ (raiseFault code s).cyc = s.cyc ∧
      (raiseFault code s).ctl.violCnt = s.ctl.violCnt ∧ (raiseFault code s).foc.ccr = s.foc.ccr := by
  unfold raiseFault latchFault
  split <;> exact ⟨rfl, rfl, rfl, rfl, rfl, rfl, rfl⟩

/-- `leaveError` touches none of the run's records and no cycle-local value. -/
theorem leaveError_records (s : State) : RunFixed s (leaveError s) ∧ (leaveError s).cyc = s.cyc := by
  unfold leaveError
  split <;> exact ⟨⟨rfl, rfl, rfl⟩, rfl⟩

/-- `satInc` adds one, or stays at the largest value. -/
theorem satInc_toNat {w : Nat} (x : BitVec w) : (satInc x).toNat = min (x.toNat + 1) (2 ^ w - 1) := by
  have h := x.isLt
  unfold satInc
  split
  · have h1 : 1 < 2 ^ w := by omega
    have h2 : (1 : BitVec w).toNat = 1 := Nat.mod_eq_of_lt h1
    rw [BitVec.toNat_add, h2, Nat.mod_eq_of_lt (by omega)]
    omega
  · omega

end Sys2Proof.Machine
end

