-- ==== Sys2Proof/Laws/Host.lean ====
section
/-! SUPPORT. What the host's shared operations can do, said once: reading and writing the register space, the commands,
the check for the first RESET, the fetch, and the transactions of a host program. -/

namespace Sys2Proof.Machine

/-- After the first RESET a transaction runs (70_reset_and_hazards.md R451). -/
theorem afterReset_of_seen {s : State} (h : s.resetSeen = true) (k : State → Host.Outcome State Fault Refusal) :
    afterReset s k = k s := by
  simp [afterReset, h]

/-- Before it, it is refused (70_reset_and_hazards.md R451). -/
theorem afterReset_of_unseen {s : State} (h : s.resetSeen = false) (k : State → Host.Outcome State Fault Refusal) :
    afterReset s k = .refused .beforeReset := by
  simp [afterReset, h]

/-- Everything a host read can do (46_host_interface.md R370). -/
theorem hostRead_cases (a : BitVec 12) (s : State) :
    (∃ r, Reg.ofAddr a = some r ∧ hostRead a s = s.respond (.data (r.read s))) ∨
    (Reg.ofAddr a = none ∧ hostRead a s = s.respond (.busError a)) := by
  unfold hostRead
  cases h : Reg.ofAddr a with
  | none => exact .inr ⟨rfl, rfl⟩
  | some r => exact .inl ⟨r, rfl, rfl⟩

/-- Everything a host write can do (46_host_interface.md R371). -/
theorem hostWrite_cases (a : BitVec 12) (v : Word) (s : State) :
    (∃ r, Reg.ofAddr a = some r ∧ r.access = .rw ∧ hostWrite a v s = (r.write v s).respond .ok) ∨
    (∃ r, Reg.ofAddr a = some r ∧ r.access = .wo ∧ hostWrite a v s = (runCommands v s).respond .ok) ∨
    (∃ r, Reg.ofAddr a = some r ∧ r.access = .ro ∧ hostWrite a v s = s.respond (.busError a)) ∨
    (Reg.ofAddr a = none ∧ hostWrite a v s = s.respond (.busError a)) := by
  unfold hostWrite
  cases h : Reg.ofAddr a with
  | none => exact .inr (.inr (.inr ⟨rfl, rfl⟩))
  | some r =>
    cases e : r.access
    · exact .inl ⟨r, rfl, e, by simp [e]⟩
    · exact .inr (.inr (.inl ⟨r, rfl, e, by simp [e]⟩))
    · exact .inr (.inl ⟨r, rfl, e, by simp [e]⟩)

/-- A register write changes neither the control part nor a record nor a cycle-local value. -/
theorem Reg.write_keeps (r : Reg) (v : Word) (s : State) :
    (r.write v s).control = s.control ∧ RunFixed s (r.write v s) ∧ (r.write v s).cyc = s.cyc := by
  cases r <;> exact ⟨rfl, ⟨rfl, rfl, rfl⟩, rfl⟩

/-- Everything the return from Error can do (46_host_interface.md R376). -/
theorem leaveError_cases (s : State) :
    (s.ctl.status.opstate = .error ∧
      leaveError s =
        (s.onFoc fun f => { f with intD := 0, intQ := 0 }).onCtl fun c =>
          { c with
            code := .none
            violCnt := 0
            status := { c.status with faultLatched := false, swBrk := false, opstate := .detecting } }) ∨
    (s.ctl.status.opstate ≠ .error ∧ leaveError s = s) := by
  unfold leaveError
  by_cases h : s.ctl.status.opstate = .error
  · exact .inl ⟨h, if_pos h⟩
  · exact .inr ⟨h, if_neg h⟩

/-- Everything the commands of a WR to CMD can do (46_host_interface.md R378). -/
theorem runCommands_cases (v : Word) (s : State) :
    runCommands v s =
      match v.getLsbD 0, v.getLsbD 1 with
      | false, false => s
      | false, true => clearDirtyFlag s
      | true, false => leaveError s
      | true, true => clearDirtyFlag (leaveError s) := by
  unfold runCommands
  cases v.getLsbD 0 <;> cases v.getLsbD 1 <;> rfl

/-- The fetch runs an instruction exactly when the stream decodes to it. -/
theorem fetch_run_iff (ws : List BusWord) (i : Instr) (rest : List BusWord) :
    fetch ws = .run i rest ↔ decode ws = .ok (i, rest) := by
  unfold fetch
  cases h : decode ws with
  | ok p =>
    obtain ⟨j, r⟩ := p
    simp
  | error e => cases e <;> simp [refusalOf]

/-! ## Host programs -/

/-- A register's address names it (10_state.md R31). -/
@[simp] theorem Reg.ofAddr_busAddr (r : Reg) : Reg.ofAddr r.busAddr = some r := by
  cases r <;> first | decide +kernel | (rename_i k; revert k; decide +kernel)

/-- A host program that has ended issues no transaction. -/
theorem HostProg.run_done {α : Type} (a : α) (s : State) : (HostProg.done a).run s = some (a, s) := rfl

/-- A host program's read goes on with the register's value (46_host_interface.md R370). -/
theorem HostProg.run_rd {α : Type} (r : Reg) (k : Word → HostProg α) {s : State} (h : s.resetSeen = true) :
    (HostProg.rd r k).run s = (k (r.read s)).run (s.respond (.data (r.read s))) := by
  simp [HostProg.run, exec, execRd, afterReset, h, hostRead]

/-- A host program's write of an RW register stores it and goes on (46_host_interface.md R371). -/
theorem HostProg.run_wr {α : Type} {r : Reg} (hr : r.access = .rw) (v : Word) (k : HostProg α) {s : State}
    (h : s.resetSeen = true) :
    (HostProg.wr r v k).run s = k.run ((r.write v s).respond .ok) := by
  have d : decodeWr r.busAddr v = .wr r.busAddr v := by
    have n : r.busAddr ≠ cmdAddr := by
      intro e
      have c := Reg.ofAddr_busAddr r
      have c' : Reg.ofAddr cmdAddr = some .cmd := by decide +kernel
      rw [e, c'] at c
      injection c with c
      subst c
      exact absurd hr (by decide)
    simp [decodeWr, n]
  simp [HostProg.run, d, exec, execWr, afterReset, h, hostWrite, hr]

end Sys2Proof.Machine
end

