-- ==== Sys2Proof/Laws/PerInstr.lean ====
section
/-! SUPPORT. One lemma per instruction of the family MatchesTableRow: the first word of an instruction's encoding matches
its row of spec/opcode_table.json, whatever its operands. -/

namespace Sys2Proof.Laws

/-- The mask and the match of an instruction's row of spec/opcode_table.json. -/
def tableRow : Instr → BitVec 48 × BitVec 48
  | .rd _ => (0xF000FFFFFFFF, 0x000000000000)
  | .wr _ _ => (0xF00000000000, 0x400000000000)
  | .tick _ _ _ _ _ _ _ => (0xFF00FFFFFFFF, 0x800000000000)
  | .reset => (0xFFFFFFFFFFFF, 0xC00000000000)
  | .faultReset _ _ => (0xFFFF00000001, 0x400800000001)
  | .clearDirty _ => (0xFFFF00000002, 0x400800000002)
  | .sample => (0x3F, 0x01)
  | .convert => (0x3F, 0x02)
  | .warmup => (0x3F, 0x03)
  | .clark3 => (0x3F, 0x04)
  | .clark2Xa => (0x3F, 0x05)
  | .clark2Xb => (0x3F, 0x06)
  | .clark2Xc => (0x3F, 0x07)
  | .park => (0x3F, 0x08)
  | .protect => (0x3F, 0x09)
  | .hall => (0x3F, 0x0A)
  | .flux => (0x3F, 0x0B)
  | .track => (0x3F, 0x0C)
  | .sincos => (0x3F, 0x0D)
  | .pi => (0x3F, 0x0E)
  | .invpark => (0x3F, 0x0F)
  | .invclark => (0x3F, 0x10)
  | .svpwm => (0x3F, 0x11)
  | .pwmout => (0x3F, 0x12)
  | .fsm => (0x3F, 0x13)
  | .measRl => (0x3F, 0x14)
  | .gaincalc => (0x3F, 0x15)
  | .hlAlign => (0x3F, 0x16)
  | .hlFwd => (0x3F, 0x17)
  | .hlRev => (0x3F, 0x18)
  | .hlFinish => (0x3F, 0x19)
  | .inject => (0x3F, 0x1A)
  | .brk => (0x3F, 0x1B)
  | .outoff => (0x3F, 0x1C)
  | .detect => (0x3F, 0x1D)
  | .clarksel => (0x3F, 0x1E)

/-- The first word of an instruction's encoding: its head, or its uop id. -/
def firstWord (i : Instr) : BitVec 48 :=
  match encode i with
  | .head h :: _ => h
  | .uop id :: _ => id.setWidth 48
  | .sample _ :: _ | [] => 0

/-- The first word under the row's mask is the row's match. -/
def MatchesTableRow.Statement (i : Instr) : Prop := firstWord i &&& (tableRow i).1 = (tableRow i).2

/-- Four fields under a mask, field by field. -/
theorem and_append_four {w1 w2 w3 w4 : Nat} (a e : BitVec w1) (b f : BitVec w2) (c g : BitVec w3) (d h : BitVec w4) :
    (a ++ b ++ c ++ d) &&& (e ++ f ++ g ++ h) = (a &&& e) ++ (b &&& f) ++ (c &&& g) ++ (d &&& h) := by
  simp [BitVec.and_append]

/-- A head under a mask, field by field. -/
theorem mkHead_and (op mo mr : BitVec 2) (addr ma : BitVec 12) (data md : Word) :
    mkHead op addr data &&& (mo ++ mr ++ ma ++ md) =
      (op &&& mo) ++ (0 : BitVec 2) ++ (addr &&& ma) ++ (data &&& md) := by
  have h := and_append_four op mo (0 : BitVec 2) mr addr ma data md
  have z : (0 : BitVec 2) &&& mr = 0 := BitVec.zero_and
  rw [z] at h
  exact h

theorem MatchesTableRow.rd (addr : BitVec 12) : MatchesTableRow.Statement (.rd addr) := by
  simpa [MatchesTableRow.Statement, firstWord, encode, tableRow] using mkHead_and 0 3 3 addr 0 0 0xFFFFFFFF

theorem MatchesTableRow.wr (addr : BitVec 12) (data : Word) : MatchesTableRow.Statement (.wr addr data) := by
  simpa [MatchesTableRow.Statement, firstWord, encode, tableRow] using mkHead_and 1 3 3 addr 0 data 0

/-- The port field keeps the reserved bits clear. -/
theorem mkPorts_and (hwbrk : BitVec 1) (probe : BitVec 4) (hall : BitVec 3) :
    mkPorts hwbrk probe hall &&& 0xF00 = 0 := by
  have h := and_append_four (0 : BitVec 4) 15 hwbrk 0 probe 0 hall 0
  have h1 : hwbrk &&& 0 = 0 := BitVec.and_zero
  have h2 : probe &&& 0 = 0 := BitVec.and_zero
  have h3 : hall &&& 0 = 0 := BitVec.and_zero
  rw [h1, h2, h3] at h
  exact h

theorem MatchesTableRow.tick (hwbrk : BitVec 1) (probe : BitVec 4) (hall : BitVec 3) (ia ib ic vbus : Half) :
    MatchesTableRow.Statement (.tick hwbrk probe hall ia ib ic vbus) := by
  have h := mkHead_and 2 3 3 (mkPorts hwbrk probe hall) 0xF00 0 0xFFFFFFFF
  rw [mkPorts_and] at h
  exact h

theorem MatchesTableRow.reset : MatchesTableRow.Statement .reset := by
  unfold MatchesTableRow.Statement
  decide

theorem MatchesTableRow.faultReset (clr : BitVec 1) (ign : BitVec 30) :
    MatchesTableRow.Statement (.faultReset clr ign) := by
  have d : (ign ++ clr ++ (1 : BitVec 1) : Word) &&& ((0 : BitVec 30) ++ (0 : BitVec 1) ++ (1 : BitVec 1)) = 1 := by
    simp only [BitVec.and_append, BitVec.ofNat_eq_ofNat, BitVec.and_zero]
    decide
  have h := mkHead_and 1 3 3 cmdAddr 0xFFF (ign ++ clr ++ (1 : BitVec 1)) ((0 : BitVec 30) ++ (0 : BitVec 1) ++ (1 : BitVec 1))
  rw [d] at h
  exact h

theorem MatchesTableRow.clearDirty (ign : BitVec 30) : MatchesTableRow.Statement (.clearDirty ign) := by
  have d : (ign ++ (2 : BitVec 2) : Word) &&& ((0 : BitVec 30) ++ (2 : BitVec 2)) = 2 := by
    simp only [BitVec.and_append, BitVec.ofNat_eq_ofNat, BitVec.and_zero]
    decide
  have h := mkHead_and 1 3 3 cmdAddr 0xFFF (ign ++ (2 : BitVec 2)) ((0 : BitVec 30) ++ (2 : BitVec 2))
  rw [d] at h
  exact h

theorem MatchesTableRow.sample : MatchesTableRow.Statement .sample := by
  unfold MatchesTableRow.Statement
  decide

theorem MatchesTableRow.convert : MatchesTableRow.Statement .convert := by
  unfold MatchesTableRow.Statement
  decide

theorem MatchesTableRow.warmup : MatchesTableRow.Statement .warmup := by
  unfold MatchesTableRow.Statement
  decide

theorem MatchesTableRow.clark3 : MatchesTableRow.Statement .clark3 := by
  unfold MatchesTableRow.Statement
  decide

theorem MatchesTableRow.clark2Xa : MatchesTableRow.Statement .clark2Xa := by
  unfold MatchesTableRow.Statement
  decide

theorem MatchesTableRow.clark2Xb : MatchesTableRow.Statement .clark2Xb := by
  unfold MatchesTableRow.Statement
  decide

theorem MatchesTableRow.clark2Xc : MatchesTableRow.Statement .clark2Xc := by
  unfold MatchesTableRow.Statement
  decide

theorem MatchesTableRow.park : MatchesTableRow.Statement .park := by
  unfold MatchesTableRow.Statement
  decide

theorem MatchesTableRow.protect : MatchesTableRow.Statement .protect := by
  unfold MatchesTableRow.Statement
  decide

theorem MatchesTableRow.hall : MatchesTableRow.Statement .hall := by
  unfold MatchesTableRow.Statement
  decide

theorem MatchesTableRow.flux : MatchesTableRow.Statement .flux := by
  unfold MatchesTableRow.Statement
  decide

theorem MatchesTableRow.track : MatchesTableRow.Statement .track := by
  unfold MatchesTableRow.Statement
  decide

theorem MatchesTableRow.sincos : MatchesTableRow.Statement .sincos := by
  unfold MatchesTableRow.Statement
  decide

theorem MatchesTableRow.pi : MatchesTableRow.Statement .pi := by
  unfold MatchesTableRow.Statement
  decide

theorem MatchesTableRow.invpark : MatchesTableRow.Statement .invpark := by
  unfold MatchesTableRow.Statement
  decide

theorem MatchesTableRow.invclark : MatchesTableRow.Statement .invclark := by
  unfold MatchesTableRow.Statement
  decide

theorem MatchesTableRow.svpwm : MatchesTableRow.Statement .svpwm := by
  unfold MatchesTableRow.Statement
  decide

theorem MatchesTableRow.pwmout : MatchesTableRow.Statement .pwmout := by
  unfold MatchesTableRow.Statement
  decide

theorem MatchesTableRow.fsm : MatchesTableRow.Statement .fsm := by
  unfold MatchesTableRow.Statement
  decide

theorem MatchesTableRow.measRl : MatchesTableRow.Statement .measRl := by
  unfold MatchesTableRow.Statement
  decide

theorem MatchesTableRow.gaincalc : MatchesTableRow.Statement .gaincalc := by
  unfold MatchesTableRow.Statement
  decide

theorem MatchesTableRow.hlAlign : MatchesTableRow.Statement .hlAlign := by
  unfold MatchesTableRow.Statement
  decide

theorem MatchesTableRow.hlFwd : MatchesTableRow.Statement .hlFwd := by
  unfold MatchesTableRow.Statement
  decide

theorem MatchesTableRow.hlRev : MatchesTableRow.Statement .hlRev := by
  unfold MatchesTableRow.Statement
  decide

theorem MatchesTableRow.hlFinish : MatchesTableRow.Statement .hlFinish := by
  unfold MatchesTableRow.Statement
  decide

theorem MatchesTableRow.inject : MatchesTableRow.Statement .inject := by
  unfold MatchesTableRow.Statement
  decide

theorem MatchesTableRow.brk : MatchesTableRow.Statement .brk := by
  unfold MatchesTableRow.Statement
  decide

theorem MatchesTableRow.outoff : MatchesTableRow.Statement .outoff := by
  unfold MatchesTableRow.Statement
  decide

theorem MatchesTableRow.detect : MatchesTableRow.Statement .detect := by
  unfold MatchesTableRow.Statement
  decide

theorem MatchesTableRow.clarksel : MatchesTableRow.Statement .clarksel := by
  unfold MatchesTableRow.Statement
  decide

end Sys2Proof.Laws
end

