-- ==== Sys2Proof/Machine/Asm.lean ====
section
/-! DEFINITION. The assembler of 30_encoding.md R146 to R148: from a program's text to its stream of words. A text that
is not a program gives `none` (R148). No definition of the block uses this file. Where R146 and R147 leave the grammar
open (white space, repeated fields, the form of a decimal), log entry 25 says what is taken. -/

namespace Sys2Proof.Machine.Asm

open Sys2Proof.Machine

/-! ## Characters and numbers -/

/-- A blank: space, tab or carriage return. -/
def isBlank (c : Char) : Bool := c == ' ' || c == '\t' || c == '\r'

/-- Without the blanks at both ends. -/
def trim (s : List Char) : List Char := ((s.dropWhile isBlank).reverse.dropWhile isBlank).reverse

/-- Letters in upper case: mnemonics and register names are case-insensitive (R146). -/
def upper (s : List Char) : List Char := s.map Char.toUpper

/-- A decimal digit's value. -/
def decDigit (c : Char) : Option Nat := if '0' ≤ c ∧ c ≤ '9' then some (c.toNat - 48) else none

/-- A hexadecimal digit's value, in either case. -/
def hexDigit (c : Char) : Option Nat :=
  let u := c.toUpper
  if 'A' ≤ u ∧ u ≤ 'F' then some (u.toNat - 55) else decDigit c

/-- The digits of a number in a base, most significant first; `none` for a character that is no digit. -/
def digits (base : Nat) (digit : Char → Option Nat) (s : List Char) : Option Nat :=
  s.foldl (fun acc c => do return (← acc) * base + (← digit c)) (some 0)

/-- An unsigned literal, decimal or `0x` hexadecimal (R146). -/
def literal (s : List Char) : Option Nat :=
  match s with
  | '0' :: 'x' :: c :: cs => digits 16 hexDigit (c :: cs)
  | c :: cs => digits 10 decDigit (c :: cs)
  | [] => none

/-- A literal below a field's bound; any other is not a program (R148). -/
def literalBelow (bound : Nat) (s : List Char) : Option Nat := (literal s).filter (· < bound)

/-- The binary32 pattern nearest to `(-1) ^ s * n / d`, ties to even (R147). The quotient is computed to at least 26
significant bits and a sticky bit. DESIGN CHOICE (log entry 25; safe): R147 asks for the nearest pattern and R148 rejects a
literal outside its field's range, and neither says which holds for a decimal beyond the largest finite number; such a
decimal gives the infinity's pattern, as rounding to nearest does. -/
def nearest (s : Bool) (n d : Nat) : Word :=
  let k := d.log2 + 28
  let scaled := n * 2 ^ k
  let sticky := if scaled % d = 0 then 0 else 1
  F32.round s (2 * (scaled / d) + sticky) (-(k + 1 : Nat))

/-- An unsigned decimal number with an optional fraction, as its digits and its number of fraction digits. -/
def decimal (s : List Char) : Option (Nat × Nat) :=
  let whole := s.takeWhile (· ≠ '.')
  match s.dropWhile (· ≠ '.') with
  | [] => if whole.isEmpty then none else (digits 10 decDigit whole).map fun n => (n, 0)
  | _ :: frac =>
    if whole.isEmpty || frac.isEmpty then none
    else (digits 10 decDigit (whole ++ frac)).map fun n => (n, frac.length)

/-- The pattern of a decimal operand of WRF (R147). -/
def decimalBits (s : List Char) : Option Word :=
  match s with
  | '-' :: rest => (decimal rest).map fun (n, k) => nearest true n (10 ^ k)
  | _ => (decimal s).map fun (n, k) => nearest false n (10 ^ k)

/-! ## Register names -/

/-- One row of the name table: a name, and for an indexed register its first index and its number of indices. -/
structure NameRow where
  name : String
  first : Nat
  count : Nat
  reg : Nat → Reg

/-- A register without an index. -/
def plain (name : String) (r : Reg) : NameRow := ⟨name, 0, 0, fun _ => r⟩

/-- The indexed registers (10_state.md R31). -/
def indexedNames : List NameRow :=
  [⟨"FRAW", 0, 4, fun k => .fraw (Fin.ofNat 4 k)⟩,
   ⟨"RAW", 0, 4, fun k => .raw (Fin.ofNat 4 k)⟩,
   ⟨"GAIN", 0, 4, fun k => .gain (Fin.ofNat 4 k)⟩,
   ⟨"OFFSET", 0, 4, fun k => .offset (Fin.ofNat 4 k)⟩,
   ⟨"LIM_HI", 0, 4, fun k => .limHi (Fin.ofNat 4 k)⟩,
   ⟨"LIM_LO", 0, 4, fun k => .limLo (Fin.ofNat 4 k)⟩,
   ⟨"PHYS", 0, 4, fun k => .phys (Fin.ofNat 4 k)⟩] ++
  [⟨"WSUM", 0, 3, fun k => .wsum (Fin.ofNat 3 k)⟩,
   ⟨"VPH", 0, 3, fun k => .vph (Fin.ofNat 3 k)⟩,
   ⟨"CCR", 0, 3, fun k => .ccr (Fin.ofNat 3 k)⟩,
   ⟨"SINTAB", 0, 256, fun k => .sintab (Fin.ofNat 256 k)⟩] ++
  [⟨"HT_SE", 1, 6, fun k => .htSe (Fin.ofNat 6 k)⟩,
   ⟨"HT_CW", 1, 6, fun k => .htCw (Fin.ofNat 6 k)⟩,
   ⟨"HL_CNT", 1, 6, fun k => .hlCnt (Fin.ofNat 6 k)⟩,
   ⟨"HL_SUM", 1, 6, fun k => .hlSum (Fin.ofNat 6 k)⟩,
   ⟨"HL_REF", 1, 6, fun k => .hlRef (Fin.ofNat 6 k)⟩]

/-- The registers without an index, control to modulator (10_state.md R31). -/
def plainNames1 : List NameRow :=
  [plain "ID" .id, plain "CTRL" .ctrl, plain "CMD" .cmd, plain "STATUS" .status, plain "FAULT" .fault,
   plain "CFG" .cfg, plain "PWM_FULL" .pwmFull, plain "CLARK_SAT" .clarkSat, plain "T_PWM" .tPwm,
   plain "VAB_TO_PWM" .vabToPwm, plain "HALLIO" .hallio, plain "WARMUP_CNT" .warmupCnt] ++
  [plain "I_ALPHA" .iAlpha, plain "I_BETA" .iBeta, plain "I_D" .iD, plain "I_Q" .iQ, plain "ID_REQ" .idReq,
   plain "IQ_REQ" .iqReq, plain "VD" .vd, plain "VQ" .vq, plain "V_ALPHA" .vAlpha, plain "V_BETA" .vBeta,
   plain "SIN" .sin, plain "COS" .cos] ++
  [plain "KP_D" .kpD, plain "KP_Q" .kpQ, plain "KI_D" .kiD, plain "KI_Q" .kiQ, plain "VD_MAX" .vdMax,
   plain "VQ_MAX" .vqMax, plain "INT_D" .intD, plain "INT_Q" .intQ, plain "PI_CNT" .piCnt, plain "PHASE_EN" .phaseEn]

/-- The registers without an index, estimator to commissioning (10_state.md R31). -/
def plainNames2 : List NameRow :=
  [plain "THETA" .theta, plain "TRK_STEP" .trkStep, plain "TRK_INVPER" .trkInvper, plain "TRK_CNT" .trkCnt,
   plain "TRK_ERR" .trkErr, plain "LAST_EVT" .lastEvt, plain "TRK_ALPHA" .trkAlpha, plain "TRK_KERR" .trkKerr,
   plain "TRK_RESTART" .trkRestart, plain "LAST_HALL_CENTER" .lastHallCenter] ++
  [plain "FLUX_A" .fluxA, plain "FLUX_B" .fluxB, plain "FLUX_BLK" .fluxBlk, plain "R_PHASE" .rPhase,
   plain "L_PHASE" .lPhase, plain "FLUX_LINK" .fluxLink, plain "I_MAX" .iMax, plain "MEAS_CNT" .measCnt,
   plain "MEAS_DUTY" .measDuty, plain "MEAS_I1" .measI1, plain "MEAS_I2" .measI2, plain "MEAS_IH" .measIh] ++
  [plain "MEAS_IL" .measIl, plain "MEAS_D12" .measD12, plain "I_TGT1" .iTgt1, plain "I_TGT2" .iTgt2,
   plain "I_BAND" .iBand, plain "MEAS_K" .measK, plain "MEAS_T1" .measT1, plain "MEAS_T2" .measT2,
   plain "MEAS_T3" .measT3, plain "L_FLOOR" .lFloor, plain "V_INJ" .vInj, plain "ALIGN_T" .alignT] ++
  [plain "SWEEP_STEP" .sweepStep, plain "CTRL_BW" .ctrlBw]

/-- The rest of `s` after the characters of `p`, if `s` begins with them. -/
def after? : List Char → List Char → Option (List Char)
  | [], s => some s
  | _ :: _, [] => none
  | p :: ps, c :: cs => if p = c then after? ps cs else none

/-- An index, written in decimal without a leading zero. -/
def index (s : List Char) : Option Nat :=
  match s with
  | '0' :: _ :: _ => none
  | c :: cs => digits 10 decDigit (c :: cs)
  | [] => none

/-- The register a row names with the (upper case) text `s`, if any. -/
def NameRow.find? (row : NameRow) (s : List Char) : Option Reg := do
  let rest ← after? row.name.toList s
  if row.count = 0 then if rest.isEmpty then some (row.reg 0) else none
  else
    let k ← index rest
    if row.first ≤ k ∧ k < row.first + row.count then some (row.reg (k - row.first)) else none

/-- A register name (R146). -/
def namedReg (s : List Char) : Option Reg :=
  (plainNames1 ++ plainNames2 ++ indexedNames).findSome? fun row => row.find? (upper s)

/-- A register operand: a name, or a numeric byte address (R146). -/
def regAddr (s : List Char) : Option (BitVec 12) :=
  match namedReg s with
  | some r => some (BitVec.ofNat 12 r.addr)
  | none => (literalBelow 4096 s).map (BitVec.ofNat 12)

/-! ## TICK fields -/

/-- The fields of a TICK. -/
structure TickFields where
  ia : Half
  ib : Half
  ic : Half
  vbus : Half
  hall : BitVec 3
  probe : BitVec 4
  hwbrk : BitVec 1
  deriving DecidableEq, Repr

/-- The fields before a program's first TICK (R146). -/
def TickFields.zero : TickFields := ⟨0, 0, 0, 0, 0, 0, 0⟩

/-- The TICK of its fields. -/
def TickFields.instr (f : TickFields) : Instr := .tick f.hwbrk f.probe f.hall f.ia f.ib f.ic f.vbus

/-- Set one field of a TICK by its name. -/
def setField (name value : List Char) (f : TickFields) : Option TickFields :=
  let u16 := (literalBelow 65536 value).map (BitVec.ofNat 16)
  if name = "ia".toList then u16.map fun v => { f with ia := v }
  else if name = "ib".toList then u16.map fun v => { f with ib := v }
  else if name = "ic".toList then u16.map fun v => { f with ic := v }
  else if name = "vbus".toList then u16.map fun v => { f with vbus := v }
  else if name = "hall".toList then (literalBelow 8 value).map fun v => { f with hall := BitVec.ofNat 3 v }
  else if name = "probe".toList then (literalBelow 16 value).map fun v => { f with probe := BitVec.ofNat 4 v }
  else if name = "hwbrk".toList then (literalBelow 2 value).map fun v => { f with hwbrk := BitVec.ofNat 1 v }
  else none

/-- Set fields `name=value`; the others keep their values (R146). DESIGN CHOICE (log entry 25; safe): R146 shows the fields in
one order and does not say whether another order or a repeated field is allowed; any order is taken, each name at most
once. -/
def setFields : List (List Char) → List (List Char) → TickFields → Option TickFields
  | [], _, f => some f
  | item :: items, seen, f => do
    let name := trim (item.takeWhile (· ≠ '='))
    match item.dropWhile (· ≠ '=') with
    | [] => none
    | _ :: value =>
      if name ∈ seen then none
      else
        let f ← setField name (trim value) f
        setFields items (name :: seen) f

/-- The comma-separated operands of a line; none for a blank text. -/
def operands (s : List Char) : List (List Char) := if (trim s).isEmpty then [] else (s.splitOn ',').map trim

/-! ## Lines and programs -/

/-- The operand of RD, with its optional expected result `-> <value>`, which is for the reader only (R147). DESIGN CHOICE
(log entry 25; safe): R147 does not say which texts may stand as the value; a u32 literal or the exact word BusError is
taken, and any other text is no program. -/
def readOperand (s : List Char) : Option (List Char) :=
  match s.dropWhile (· ≠ '-') with
  | [] => some (trim s)
  | '-' :: '>' :: v =>
    if trim v = "BusError".toList ∨ (literalBelow (2 ^ 32) (trim v)).isSome then some (trim (s.takeWhile (· ≠ '-')))
    else none
  | _ => none

/-- One line: its transactions, and the fields of the last TICK after it (R146, R147). DESIGN CHOICE (log entry 25; safe):
R146 says one transaction per line and does not speak of a line that is blank or holds only a comment; it is taken as no
transaction. R146 and R147 do not say whether TICK and TICKN may stand with no field at all; they may here, without a comma
after the count. R147 does not give the notation of the count; decimal and `0x` hexadecimal are taken. -/
def line (s : List Char) (last : TickFields) : Option (List Instr × TickFields) := do
  let body := trim (s.takeWhile (· ≠ ';'))
  let mnemonic := upper (body.takeWhile (fun c => !isBlank c))
  let rest := body.dropWhile (fun c => !isBlank c)
  let ops := operands rest
  if mnemonic = [] then return ([], last)
  else if mnemonic = "RESET".toList then if ops = [] then return ([.reset], last) else none
  else if mnemonic = "FAULT_RESET".toList then if ops = [] then return ([decodeWr cmdAddr 1], last) else none
  else if mnemonic = "CLEAR_DIRTY".toList then if ops = [] then return ([decodeWr cmdAddr 2], last) else none
  else if mnemonic = "RD".toList then
    let a ← regAddr (← readOperand rest)
    return ([.rd a], last)
  else if mnemonic = "WR".toList then
    match ops with
    | [r, v] =>
      let a ← regAddr r
      let v ← literalBelow (2 ^ 32) v
      return ([decodeWr a (BitVec.ofNat 32 v)], last)
    | _ => none
  else if mnemonic = "WRF".toList then
    match ops with
    | [r, v] =>
      let a ← regAddr r
      let v ← decimalBits v
      return ([decodeWr a v], last)
    | _ => none
  else if mnemonic = "TICK".toList then
    let f ← setFields ops [] last
    return ([f.instr], f)
  else if mnemonic = "TICKN".toList then
    match ops with
    | n :: items =>
      let n ← literal n
      let f ← setFields items [] last
      return (List.replicate n f.instr, if n = 0 then last else f)
    | [] => none
  else none

/-- The instructions of a program's lines (R146). -/
def lines : List (List Char) → TickFields → Option (List Instr)
  | [], _ => some []
  | l :: ls, last => do
    let (is, last) ← line l last
    let rest ← lines ls last
    return is ++ rest

/-- The instructions of a program's text. -/
def assemble (text : List Char) : Option (List Instr) := lines (text.splitOn '\n') TickFields.zero

/-- The stream of a program's text. -/
def assembleWords (text : List Char) : Option (List BusWord) := (assemble text).map fun is => is.flatMap encode

end Sys2Proof.Machine.Asm
end

