-- ==== Sys2Proof/Tests/Slice0.lean ====
section
/-! SUPPORT. Tests and witnesses. Expected results come from spec/95_test_vectors.md (the vector is named beside each test)
or are worked out by hand from the rule named; a NaN's bits are free, so a test asks only whether a value is a NaN. -/

/-! The tests are checked one after another: evaluated side by side they exhaust the thread stacks. -/

set_option Elab.async false

namespace Sys2Proof.Tests

open Sys2Proof Sys2Proof.Machine

/-! ## Helpers -/

/-- The state an instruction leaves, where it answers a next state. -/
def after (i : Instr) (s : State) : Option State :=
  match exec i s with
  | .next t => some t
  | _ => none

/-- What registers read after an instruction. -/
def reads (i : Instr) (s : State) (rs : List Reg) : Option (List Word) := (after i s).map fun t => rs.map fun r => r.read t

/-- A next state in which a test holds. -/
theorem next_of_after {i : Instr} {s : State} {p : State → Bool} (h : (after i s).map p = some true) :
    ∃ t, exec i s = .next t ∧ p t = true := by
  unfold after at h
  split at h
  · rename_i t e
    exact ⟨t, e, by simpa using h⟩
  · exact absurd h (by simp)

/-- A next state. -/
theorem next_of_isSome {i : Instr} {s : State} (h : (after i s).isSome = true) : ∃ t, exec i s = .next t := by
  unfold after at h
  split at h
  · exact ⟨_, ‹_›⟩
  · exact absurd h (by decide)

/-- The responses after an instruction. -/
def answers (i : Instr) (s : State) : Option (List Response) := (after i s).map fun t => t.responses

/-- The refusal of a step. -/
def refusal (s : State) : Option Refusal :=
  match step s with
  | .refused r => some r
  | _ => none

/-- A step that is not refused answers a next state: there is no fault to end in. -/
theorem next_of_not_refused {s : State} (h : refusal s = none) : ∃ t, step s = .next t := by
  unfold refusal at h
  cases e : step s with
  | next t => exact ⟨t, rfl⟩
  | fault f => cases f
  | refused r => simp [e] at h

/-- The refusal of an instruction. -/
def refusalOf (i : Instr) (s : State) : Option Refusal :=
  match exec i s with
  | .refused r => some r
  | _ => none

/-- Host writes of named registers, on the reset state. -/
def withRegs (ws : List (Reg × Word)) : State := ws.foldl (fun s p => p.1.write p.2 s) State.reset

/-- A TICK with the ports the vectors use (95_test_vectors.md 2.6), but for `probe`, `hall` and `ia`. -/
def tick (probe : BitVec 4) (hall : BitVec 3) (ia : Half) : Instr := .tick 0 probe hall ia 2048 2048 768

/-- The stream of a 48-bit head. -/
def headStream (h : BitVec 48) : State := { State.reset with stream := [.head h] }

/-- A state in Error as PROTECT left it (95_test_vectors.md P1). -/
def inError : State :=
  (State.reset.onCtl fun x => { x with code := .overLimit, violCnt := 3, fraw := ⟨3001, 2048, 2048, 768⟩ }).onStatus
    fun x => { x with opstate := .error, faultLatched := true, swBrk := true }

/-- A state in an OperatingState and sub-phase with warm-up done and the Hall table valid. -/
def inState (o : OpState) (sub : SubPhase) : State :=
  ((State.reset.onPipe fun x => { x with warmupCnt := 1000 }).onStatus fun x =>
    { x with opstate := o, subphase := sub, warmupDone := true, htValid := true })

/-! ## The parameters (00_scope.md R12) -/

/-- An arithmetic whose every sum is 1.0, to tell it from binary32. -/
def oneSums : Params := { Params.default with num := { F32.binary32 with add := fun _ _ _ => 0x3F800000 } }

/-- INVPARK under another NUM: V_BETA is the other arithmetic's sum, where binary32 gives 0. -/
theorem test_param_num :
    (match execWith oneSums .invpark State.reset with
      | .next t => some (t.foc.vBeta, t.foc.vAlpha)
      | _ => none) = some (0x3F800000, 0) ∧
    (after .invpark State.reset).map (fun t => t.foc.vBeta) = some 0 := by decide +kernel

/-- SINCOS and RD SINTAB64 under another sine table (40_signal_pipeline.md R170). -/
theorem test_param_sintab :
    (match execWith { Params.default with sintab := fun k => BitVec.ofNat 32 k.val } .sincos State.reset with
      | .next t => some (t.foc.sin, t.foc.cos)
      | _ => none) = some (0, 64) ∧
    (match execWith { Params.default with sintab := fun k => BitVec.ofNat 32 k.val } (.rd 0x500) State.reset with
      | .next t => t.responses
      | _ => []) = [.data 64] := by decide +kernel

/-- UNSPEC_STATE_ACTION may replace the refusal of a placeholder state (44_state_machine.md R301). -/
theorem test_param_action :
    (match
        execWith { Params.default with unspecStateAction := fun _ _ => some fun s => .done (outputsOff s) } (tick 0 1 2048)
          (inState .align .rlP1) with
      | .next t => some (t.ctl.status.opstate, t.pipe.raw.ia)
      | _ => none) = some (.align, 2048) ∧
    refusalOf (tick 0 1 2048) (inState .align .rlP1) = some .placeholderState := by decide +kernel

/-! ## Decoding: words written out from the spec's encodings -/

/-- 30_encoding.md R132, R133: OP 00, bits 45:44 zero, ADDR 0x00C, DATA zero (V-EN1). -/
theorem test_decode_rd :
    decodeTableWord 48 0b00_00_000000001100_00000000000000000000000000000000 = some (.rd 0x00C) := by decide

/-- R134: OP 01, ADDR 0x004, DATA 3 (V-EN2). -/
theorem test_decode_wr :
    decodeTableWord 48 0b01_00_000000000100_00000000000000000000000000000011 = some (.wr 0x004 3) := by decide

/-- R135: OP 10; port field 0000 HWBRK PROBE HALL; then the sample word VBUS, IC, IB, IA (V-EN3, V-EN4). -/
theorem test_decode_tick :
    decodeTableWord 112
        (0x0300080108020BB9 * 2 ^ 48 + 0b10_00_0000_1_1010_011_00000000000000000000000000000000) =
      some (.tick 1 10 3 0x0BB9 0x0802 0x0801 0x0300) := by decide

/-- R136: OP 11, everything else zero (V-EN5). -/
theorem test_decode_reset :
    decodeTableWord 48 0b11_00_000000000000_00000000000000000000000000000000 = some .reset := by decide

/-- R139: WR to 0x008 with bit 0 set; with bits 1 and 0 set the command is FAULT_RESET too (V-EN6). -/
theorem test_decode_faultReset :
    decodeTableWord 48 0b01_00_000000001000_00000000000000000000000000000001 = some (.faultReset 0 0) ∧
    decodeTableWord 48 0b01_00_000000001000_00000000000000000000000000000111 = some (.faultReset 1 1) := by decide

/-- R139: WR to 0x008 with bit 1 set and bit 0 clear (V-EN6). -/
theorem test_decode_clearDirty :
    decodeTableWord 48 0b01_00_000000001000_00000000000000000000000000000010 = some (.clearDirty 0) := by decide

/-- R143's ids of the signal pipeline and the protection. -/
theorem test_decode_pipeline :
    decodeTableWord 6 0b000001 = some .sample ∧ decodeTableWord 6 0b000010 = some .convert ∧
    decodeTableWord 6 0b000011 = some .warmup ∧ decodeTableWord 6 0b000100 = some .clark3 ∧
    decodeTableWord 6 0b000101 = some .clark2Xa ∧ decodeTableWord 6 0b000110 = some .clark2Xb ∧
    decodeTableWord 6 0b000111 = some .clark2Xc ∧ decodeTableWord 6 0b001000 = some .park ∧
    decodeTableWord 6 0b001001 = some .protect ∧ decodeTableWord 6 0b001101 = some .sincos ∧
    decodeTableWord 6 0b011110 = some .clarksel := by decide

/-- R143's ids of the estimator and the controller. -/
theorem test_decode_estimator_controller :
    decodeTableWord 6 0b001010 = some .hall ∧ decodeTableWord 6 0b001011 = some .flux ∧
    decodeTableWord 6 0b001100 = some .track ∧ decodeTableWord 6 0b001110 = some .pi ∧
    decodeTableWord 6 0b001111 = some .invpark ∧ decodeTableWord 6 0b010000 = some .invclark ∧
    decodeTableWord 6 0b010001 = some .svpwm ∧ decodeTableWord 6 0b010010 = some .pwmout ∧
    decodeTableWord 6 0b011011 = some .brk ∧ decodeTableWord 6 0b011100 = some .outoff := by decide

/-- R143's ids of the state machine and self-commissioning. -/
theorem test_decode_states :
    decodeTableWord 6 0b010011 = some .fsm ∧ decodeTableWord 6 0b010100 = some .measRl ∧
    decodeTableWord 6 0b010101 = some .gaincalc ∧ decodeTableWord 6 0b010110 = some .hlAlign ∧
    decodeTableWord 6 0b010111 = some .hlFwd ∧ decodeTableWord 6 0b011000 = some .hlRev ∧
    decodeTableWord 6 0b011001 = some .hlFinish ∧ decodeTableWord 6 0b011010 = some .inject ∧
    decodeTableWord 6 0b011101 = some .detect := by decide

/-- V-EN7 to V-EN10: a reserved bit set is refused. -/
theorem test_reserved_heads :
    refusal (headStream 0x100000000000) = some .illegalHead ∧ refusal (headStream 0x000C00000001) = some .illegalHead ∧
    refusal (headStream 0xC00100000000) = some .illegalHead ∧
    refusal (headStream 0x810000000000) = some .illegalHead := by decide

/-- The WellFormed check: a WR that carries a command bit to CMD is ill formed (R139); one without is well formed. -/
theorem test_wellFormed_refuses_command_writes :
    Instr.wellFormed (.wr 0x008 1) = false ∧ Instr.wellFormed (.wr 0x008 2) = false ∧
    Instr.wellFormed (.wr 0x008 0xFFFFFFFC) = true ∧ Instr.wellFormed (.wr 0x00C 3) = true := by decide

/-- V-EN11, V-EN2: the assembler (R146, R147). -/
theorem test_assembler :
    Asm.assembleWords "WRF IQ_REQ, 0.1".toList = some [.head 0x40C43DCCCCCD] ∧
    Asm.assembleWords "WR CTRL, 0x3".toList = some [.head 0x400400000003] ∧ Asm.assembleWords "WR NOWHERE, 1".toList = none := by
  decide +kernel

/-! ## The host port -/

/-- V-EX3, V-RS1: CMD reads 0 and STATUS its reset value. -/
theorem test_rd : answers (.rd 0x008) State.reset = some [.data 0] ∧
    answers (.rd 0x00C) State.reset = some [.data 0x00200000] := by decide +kernel

/-- V-EX1: misaligned and unmapped addresses, and a WR to a read-only register. -/
theorem test_bus_errors : answers (.rd 0x00D) State.reset = some [.busError 0x00D] ∧
    answers (.rd 0xFFC) State.reset = some [.busError 0xFFC] ∧
    answers (.wr 0x00C 5) State.reset = some [.busError 0x00C] := by decide +kernel

/-- V-EX2: reserved bits are dropped. -/
theorem test_wr : reads (.wr 0x028 0x12340400) State.reset [.pwmFull] = some [0x400] := by decide +kernel

/-- P1, its first TICK: a violation counted and both references scaled. -/
theorem test_tick_protects :
    reads (tick 0 0 3001) (withRegs [(.pwmFull, 1024), (.limHi 0, 3000), (.iqReq, 0x41200000)])
        [.status, .fault, .iqReq, .raw 0, .warmupCnt, .offset 0] =
      some [0x00200000, 0x00000100, 0x41100000, 3001, 1, 0x453B9000] := by decide +kernel

/-- V-SM7: Detecting with probe 2 and no Hall table enters HL_ALIGN. -/
theorem test_tick_detects :
    reads (tick 2 1 2048) ((inState .detecting .rlP1).onStatus fun x => { x with htValid := false }) [.status] =
      some [0x00200832] := by decide +kernel

/-- V-RS1: RESET from another state. -/
theorem test_reset :
    reads .reset inError [.status, .cfg, .clarkSat, .limHi 0, .cos, .trkAlpha, .fault] =
      some [0x00200000, 1, 0xFFFF, 0xFFFF, 0x3F800000, 0x3E4CCCCD, 0] := by decide +kernel

/-- V-SM11: FAULT_RESET then CLEAR_DIRTY. -/
theorem test_faultReset :
    reads (.faultReset 1 0) (inError.onStatus fun x => { x with dirty := true }) [.status, .fault] =
      some [0x00200001, 0] := by decide +kernel

/-- R377: CLEAR_DIRTY in Error clears DIRTY alone. -/
theorem test_clearDirty :
    reads (.clearDirty 0) (inError.onStatus fun x => { x with dirty := true }) [.status] = some [0x0020030A] := by
  decide +kernel

/-- V-RS2: any transaction before the first RESET is refused. -/
theorem test_before_reset : refusalOf (.rd 0) State.reset.beforeReset = some .beforeReset := by decide

/-! ## The signal pipeline -/

/-- R161: SAMPLE latches the ports of the cycle. -/
theorem test_sample :
    reads .sample (State.reset.onCyc fun x => { x with ports := some ⟨⟨1, 2, 3, 4⟩, 5, 9, 1⟩ })
        [.raw 0, .raw 1, .raw 2, .raw 3, .status] = some [1, 2, 3, 4, 0x00200400] := by decide +kernel

/-- V-SP1, V-SP2. -/
theorem test_convert :
    reads .convert (withRegs [(.gain 0, 0x3D800000), (.offset 0, 0x45000000)]) [.phys 0] = some [0xC3000000] ∧
    reads .convert ((withRegs [(.gain 0, 0x3D800000), (.offset 0, 0x45000000)]).onPipe fun x =>
      { x with raw := { x.raw with ia := 65535 } }) [.phys 0] = some [0x4577FF00] := by decide +kernel

/-- V-SP5: a NaN gain gives a NaN, whatever its bits. -/
theorem test_convert_nan :
    ((after .convert (withRegs [(.gain 0, 0x7FC00001)])).map fun t => F32.isNaN t.pipe.phys.ia) = some true := by
  have h : F32.isNaN (0x7FC00001 : Word) = true := by decide
  have e (q : BitVec 23) (b : Word) : F32.isNaN (F32.mul q (0x7FC00001 : Word) b) = true := by
    unfold F32.mul
    rw [h]
    exact F32.isNaN_nan q
  exact congrArg some (e (Config.freeBits 23 0 1) (F32.sub (Config.freeBits 23 0 0) (F32.ofNat 0) 0))

/-- V-SP8 (the third sample), V-SP9. -/
theorem test_warmup :
    reads .warmup (State.reset.onPipe fun x => { x with raw := ⟨2, 0, 0, 0⟩, warmupCnt := 2, wsum := ⟨3, 0, 0⟩ })
        [.offset 0, .wsum 0, .warmupCnt] = some [0x3FD55555, 5, 3] ∧
    reads .warmup ((withRegs [(.offset 0, 0x40A00000)]).onPipe fun x => { x with warmupCnt := 1000 })
        [.offset 0, .warmupCnt] = some [0x40A00000, 1000] := by decide +kernel

/-- A state with the given phase currents and the compare values. -/
def currents (a b c : Word) : State := State.reset.onPipe fun x => { x with phys := ⟨a, b, c, 0⟩ }

/-- V-SP13, V-SP10: CLARK3 at (10, -4, -6) and (1, 0, 0). -/
theorem test_clark3 :
    reads .clark3 (currents 0x41200000 0xC0800000 0xC0C00000) [.iAlpha, .iBeta] = some [0x41200000, 0x3F93CD3A] ∧
    reads .clark3 (currents 0x3F800000 0 0) [.iAlpha, .iBeta] = some [0x3F2AAAAB, 0] := by decide +kernel

/-- V-SP13, V-SP11. -/
theorem test_clark2Xa :
    reads .clark2Xa (currents 0x41200000 0xC0800000 0xC0C00000) [.iAlpha, .iBeta] = some [0x41200000, 0x3F93CD3A] ∧
    reads .clark2Xa (currents 0x3F800000 0 0) [.iAlpha, .iBeta] = some [0x80000000, 0] := by decide +kernel

/-- V-SP13, V-SP11. -/
theorem test_clark2Xb :
    reads .clark2Xb (currents 0x41200000 0xC0800000 0xC0C00000) [.iAlpha, .iBeta] = some [0x41200000, 0x3F93CD3A] ∧
    reads .clark2Xb (currents 0x3F800000 0 0) [.iAlpha, .iBeta] = some [0x3F800000, 0xBF13CD3A] := by decide +kernel

/-- V-SP13, V-SP11. -/
theorem test_clark2Xc :
    reads .clark2Xc (currents 0x41200000 0xC0800000 0xC0C00000) [.iAlpha, .iBeta] = some [0x41200000, 0x3F93CD3A] ∧
    reads .clark2Xc (currents 0x3F800000 0 0) [.iAlpha, .iBeta] = some [0x3F800000, 0x3F13CD3A] := by decide +kernel

/-- The variant CLARKSEL chooses for compare values and a threshold. -/
def variant (a b c sat : Half) : Option ClarkVar :=
  (after .clarksel ((State.reset.onFoc fun x => { x with ccr := ⟨a, b, c⟩ }).onCtl fun x =>
    { x with clarkSat := sat })).map fun t => t.ctl.status.clarkVar

/-- V-SP15 to V-SP18. -/
theorem test_clarksel :
    variant 500 900 900 800 = some .excludeB ∧ variant 800 100 100 800 = some .threePhase ∧
    variant 0 0 1 0 = some .excludeC ∧ variant 0 0 0 0 = some .threePhase ∧ variant 1000 0 0 999 = some .excludeA := by
  decide +kernel

/-- V-SP19. -/
theorem test_park :
    reads .park (State.reset.onFoc fun x =>
      { x with sin := 0x3F800000, cos := 0, iAlpha := 0x41200000, iBeta := 0x3F93CD3A }) [.iD, .iQ] =
      some [0x3F93CD3A, 0xC1200000] := by decide +kernel

/-- V-SP23 and V-SP22. -/
theorem test_sincos :
    reads .sincos (withRegs [(.theta, 0x2AAA)]) [.sin, .cos] = some [0x3F5B941A, 0x3F039C3D] ∧
    reads .sincos (withRegs [(.theta, 0xC000)]) [.sin, .cos] = some [0xBF800000, 0] := by decide +kernel

/-! ## Protection and the estimator -/

/-- The pre-state of V-PR1: a raw sample on channel 0, a count, IQ_REQ. -/
def guarded (raw : Half) (cnt : Byte) : State :=
  ((withRegs [(.limHi 0, 3000), (.iqReq, 0x40BCF4EF)]).onPipe fun x => { x with raw := ⟨raw, 2048, 2048, 768⟩ }).onCtl
    fun x => { x with violCnt := cnt }

/-- V-PR1 (its eighth sample), V-PR2. -/
theorem test_protect_counts :
    reads .protect (guarded 3001 1) [.fault, .iqReq, .status] = some [0x00000200, 0x40AA0FA4, 0x00200000] ∧
    reads .protect (guarded 3000 2) [.fault, .iqReq] = some [0, 0x40BCF4EF] := by decide +kernel

/-- L1.4: the third consecutive violation trips, with the raw samples of that cycle. -/
theorem test_protect_trips :
    reads .protect (guarded 3001 2) [.fault, .status, .fraw 0, .fraw 3, .phaseEn] =
      some [0x00000301, 0x0020030A, 3001, 768, 0] := by decide +kernel

/-- The pre-state of V-ES1 and V-ES3. -/
def hallAt (raw last : BitVec 3) (center lastCenter : Half) : State :=
  ((State.reset.onCtl fun x => { x with hallRaw := raw, lastHall := last }).onEst fun x =>
    { x with lastHallCenter := lastCenter }).onMot fun x => { x with ht := x.ht.set 1 ⟨0, 0, center, 0⟩ }

/-- V-ES1, V-ES3, V-ES2: exactly half a revolution is backward, no difference is forward, no edge is no event. -/
theorem test_hall :
    ((after .hall (hallAt 2 1 32768 0)).map fun t => t.cyc.hallEvt) = some (some ⟨32768, false, .hall⟩) ∧
    ((after .hall (hallAt 2 1 100 100)).map fun t => t.cyc.hallEvt) = some (some ⟨100, true, .hall⟩) ∧
    ((after .hall (hallAt 2 2 100 0)).map fun t => t.cyc.hallEvt) = some none := by decide +kernel

/-- V-ES4. -/
theorem test_hall_faults :
    reads .hall (hallAt 0 1 0 0) [.fault, .status] = some [2, 0x0020030A] ∧
    reads .hall (hallAt 7 1 0 0) [.fault, .status] = some [3, 0x0020030A] := by decide +kernel

/-- V-ES14: a crossing outside the blanking window, forward at 40960. -/
theorem test_flux_crossing :
    ((after .flux ((withRegs [(.fluxLink, 0x3F800000)]).onEst fun x =>
      { x with fluxA := 0xBBA3D70A, fluxB := 0xBBA71DE7 })).map fun t => (t.cyc.fluxEvt, t.est.fluxBlk)) =
      some (some ⟨40960, true, .flux⟩, 0) := by decide +kernel

/-- V-ES19: (1 - 0.5) * 0.5. -/
theorem test_flux_integral :
    reads .flux ((withRegs [(.fluxLink, 0x41200000), (.tPwm, 0x3F000000), (.rPhase, 0x3E800000)]).onFoc fun x =>
      { x with vAlpha := 0x3F800000, iAlpha := 0x40000000 }) [.fluxA, .fluxB] = some [0x3E800000, 0] := by
  decide +kernel

/-- V-ES6. -/
theorem test_track_event :
    reads .track (((State.reset.onEst fun x => { x with lastEvt := 16384, trkCnt := 49, theta := 16384 }).onStatus fun x =>
      { x with evtSeen := true }).onCyc fun x => { x with hallEvt := some ⟨5461, false, .hall⟩ })
        [.trkStep, .trkInvper, .theta, .trkCnt] = some [0xC22EC49C, 0x3B83126F, 14975, 0] := by decide +kernel

/-- V-ES11: the 3001st count forces THETA. -/
theorem test_track_timeout :
    reads .track (State.reset.onEst fun x => { x with trkCnt := 3000, lastHallCenter := 5461, theta := 100 })
      [.theta, .trkCnt] = some [5461, 1500] := by decide +kernel

/-- V-CT17, V-CT18: the conversions at their corners. -/
theorem test_conversions :
    toDuty 0x447FFFDF 1024 = 1023 ∧ toDuty 0x44802000 1024 = 1024 ∧ toDuty 0xC0400000 1024 = 0 ∧
    toDuty 0x7FC00000 1024 = 0 ∧ toAngleStep 0xBFC00000 = 65535 ∧ toAngleStep 0x4788B85A = 4464 ∧
    toAngleStep 0x7F800000 = 0 := by decide +kernel

/-! ## The controller and the modulator -/

/-- The pre-state of V-CT1 to V-CT7. -/
def controller (div : Word) (iqReq intQ : Word) : State :=
  (withRegs [(.cfg, div), (.kpQ, 0x3F000000), (.kiQ, 0x3E800000), (.vqMax, 0x41400000), (.iqReq, iqReq)]).onFoc fun x =>
    { x with intQ := intQ }

/-- V-CT1 (the first execution), V-CT2: a divisor of 0 acts as 1. -/
theorem test_pi :
    reads .pi (controller 3 0x40000000 0) [.piCnt, .vq] = some [1, 0] ∧
    reads .pi (controller 0 0x40000000 0) [.piCnt, .vq, .intQ] = some [0, 0x3FC00000, 0x3F000000] := by decide +kernel

/-- V-CT5: anti-windup. -/
theorem test_pi_windup :
    reads .pi (controller 1 0xC1F00000 0xC1300000) [.intQ, .vq] = some [0xC1400000, 0xC1400000] := by decide +kernel

/-- V-CT9's second step: SIN 1, COS 0, VD 2. -/
theorem test_invpark :
    reads .invpark (State.reset.onFoc fun x => { x with sin := 0x3F800000, cos := 0, vd := 0x40000000 })
      [.vAlpha, .vBeta] = some [0, 0x40000000] := by decide +kernel

/-- V-CT9's third step and V-CT8. -/
theorem test_invclark :
    reads .invclark (State.reset.onFoc fun x => { x with vBeta := 0x40000000 }) [.vph 0, .vph 1, .vph 2] =
      some [0, 0x3FDDB3D7, 0xBFDDB3D7] ∧
    reads .invclark State.reset [.vph 0, .vph 1, .vph 2] = some [0, 0, 0x80000000] := by decide +kernel

/-- The compare values SVPWM computes. -/
def duties (vph : Phase Word) (scale : Word) (full : Half) : Option (Option (Phase Half)) :=
  (after .svpwm ((State.reset.onFoc fun x => { x with vph := vph }).onCtl fun x =>
    { x with vabToPwm := scale, pwmFull := full })).map fun t => t.cyc.ccrNext

/-- V-CT9, L1.6. -/
theorem test_svpwm :
    duties ⟨0, 0x3FDDB3D7, 0xBFDDB3D7⟩ 0x42200000 1024 = some (some ⟨512, 581, 442⟩) ∧
    duties ⟨0x44000000, 0xC4000000, 0⟩ 0x3F800000 1024 = some (some ⟨1024, 0, 512⟩) := by decide +kernel

/-- R265. -/
theorem test_pwmout :
    reads .pwmout (State.reset.onCyc fun x => { x with ccrNext := some ⟨512, 581, 442⟩ })
      [.ccr 0, .ccr 1, .ccr 2, .phaseEn] = some [512, 581, 442, 7] := by decide +kernel

/-- A state with compare values and all phases on. -/
def driving : State := State.reset.onFoc fun x => { x with ccr := ⟨1, 2, 3⟩, phaseEn := ⟨true, true, true⟩ }

/-- V-CT19. -/
theorem test_brk :
    reads .brk driving [.phaseEn, .status, .ccr 0, .ccr 1, .ccr 2] = some [0, 0x00200200, 1, 2, 3] := by decide +kernel

/-- V-CT20. -/
theorem test_outoff : reads .outoff driving [.phaseEn, .status, .ccr 2] = some [0, 0x00200000, 3] := by decide +kernel

/-! ## The state machine and self-commissioning -/

/-- V-SM2 and V-SM3's transitions, and V-SM2's whole cycle, the 1000th. -/
theorem test_fsm :
    reads .fsm (((inState .idle .rlP1).onStatus fun x => { x with htValid := false }).onCtl fun x =>
      { x with run := true }) [.status] = some [0x00200802] ∧
    reads .fsm (((inState .measuring .rlP1).onStatus fun x => { x with htValid := false }).onCtl fun x =>
      { x with paramsValid := true }) [.status] = some [0x00201803] ∧
    reads (tick 0 1 2048) ((State.reset.onPipe fun x => { x with warmupCnt := 999 }).onCtl fun x =>
      { x with run := true }) [.status, .phaseEn] = some [0x00200802, 0] := by decide +kernel

/-- V-SM6, V-SM9. -/
theorem test_detect :
    reads .detect (((inState .detecting .rlP1).onStatus fun x => { x with htValid := false }).onCtl fun x =>
      { x with probe := 8 }) [.status, .fault] = some [0x00200B0A, 4] ∧
    reads .detect ((inState .detecting .rlP1).onCtl fun x => { x with probe := 2 }) [.status] = some [0x00201803] := by
  decide +kernel

/-- L1.2: the resistance (2/2048) * 24 / 8, exactly. -/
theorem test_measRl_resistance :
    reads .measRl (((withRegs [(.pwmFull, 1024), (.measT1, 2), (.measT2, 4), (.measT3, 13)]).onCom fun x =>
      { x with measCnt := 4, d1 := 2, d2 := 4, measI1 := 0xC0800000, measI2 := 0xC1400000 }).onPipe fun x =>
      { x with phys := ⟨0, 0, 0, 0x41C00000⟩ }) [.rPhase, .measCnt] = some [0x3B400000, 5] := by decide +kernel

/-- V-SC2: a negative inductance takes the floor. -/
theorem test_measRl_completes :
    reads .measRl ((withRegs [(.measT1, 2), (.measT2, 4), (.measT3, 5), (.rPhase, 0x3B400000), (.tPwm, 0x38800000)]).onCom
      fun x => { x with measCnt := 5, measIh := 0x41380000, measIl := 0x41480000 }) [.lPhase, .status] =
      some [0x358637BD, 0x00202001] := by decide +kernel

/-- V-SC5: PI_DIV 1 and 4. -/
theorem test_gaincalc :
    reads .gaincalc (withRegs [(.lPhase, 0x35900000), (.rPhase, 0x3B400000), (.tPwm, 0x38800000)]) [.kpD, .kiQ] =
      some [0x3A8CA000, 0x393B8000] ∧
    reads .gaincalc (withRegs [(.cfg, 4), (.lPhase, 0x35900000), (.rPhase, 0x3B400000), (.tPwm, 0x38800000)])
      [.kpQ, .kiD] = some [0x3A8CA000, 0x3A3B8000] := by decide +kernel

/-- V-SC8. -/
theorem test_hlAlign :
    reads .hlAlign ((withRegs [(.alignT, 0), (.theta, 7)]).onStatus fun x =>
      { x with opstate := .measuring, subphase := .hlAlign }) [.status, .theta, .measCnt] = some [0x00200042, 0, 0] := by
  decide +kernel

/-- A sweep: Hall state 1, an angle, SWEEP_STEP 0. -/
def sweeping (theta : Word) : State :=
  (withRegs [(.sweepStep, 0), (.theta, theta)]).onCtl fun x => { x with hallRaw := 1 }

/-- V-SC9, V-SC10. -/
theorem test_hlFwd :
    reads .hlFwd (sweeping 65535) [.theta, .status, .hlCnt 0] = some [65535, 0x00200050, 1] ∧
    reads .hlFwd (sweeping 10) [.theta, .status] = some [11, 0x00200000] := by decide +kernel

/-- V-SC11, V-SC7. -/
theorem test_hlRev :
    reads .hlRev (sweeping 0) [.status] = some [0x00203003] ∧
    reads .hlRev ((sweeping 500).onCom fun x => { x with hl := x.hl.set 0 ⟨1, 0, 65000⟩ }) [.hlSum 0, .hlCnt 0, .theta] =
      some [1036, 2, 499] := by decide +kernel

/-- V-SC6. -/
theorem test_hlFinish :
    reads .hlFinish (State.reset.onCom fun x => { x with hl := x.hl.set 1 ⟨3, 0xFFFFFFFB, 100⟩ })
      [.htCw 1, .htSe 1, .htCw 0, .htSe 0, .status] =
      some [99 + 3 * 65536, 98 + 100 * 65536, 0, 0, 0x00203003] := by decide +kernel

/-- V-SC12. -/
theorem test_inject :
    reads .inject ((withRegs [(.vInj, 0x40000000)]).onFoc fun x => { x with vq := 7, intD := 5 }) [.vd, .vq, .intD] =
      some [0x40000000, 0, 5] := by decide +kernel

/-! ## Witnesses: concrete states and operands that meet each statement's hypotheses, clause by clause

A statement without hypotheses (SpecWordsDecode, ResetSetsEveryRegister, ResetMeetsInvariant, SineTableSymmetries,
MicroOperationsNeverStop, and those that hold for every state) needs none; where such a statement splits into cases, the
tests above run one of each. -/

/-- A legal state in Error: `inError` with warm-up not done. -/
theorem inError_inv : inError.Inv := by
  constructor <;> decide

/-- A legal state in HallRun. -/
theorem inHallRun_inv : (inState .hallRun .rlP1).Inv := by
  constructor <;> decide

/-- A legal state of Idle with the warm-up window full and RUN set. -/
theorem inIdle_inv : ((inState .idle .rlP1).onCtl fun x => { x with run := true }).Inv := by
  constructor <;> decide

theorem witness_DecodeOfEncode :
    Instr.wellFormed (.wr 0x008 0xFFFFFFFC) = true ∧ Instr.wellFormed (.faultReset 1 0x3FFFFFFF) = true ∧
    Instr.wellFormed (tick 15 7 65535) = true ∧ Instr.wellFormed .clarksel = true := by decide

theorem witness_EncodeOfDecode :
    decode [.head 0x80FF00000000, .sample 0xFFFFFFFFFFFFFFFF, .uop 0x3F] =
      .ok (.tick 1 15 7 65535 65535 65535 65535, [.uop 0x3F]) := by rfl

/-- Each clause of R140 with one bit set, the legal head beside it, and the ids beside the reserved ones. -/
theorem witness_ReservedEncodingsRefused :
    (headStream 0x200000000000).stream = [.head 0x200000000000] ∧
    refusal (headStream 0x200000000000) = some .illegalHead ∧ refusal (headStream 0x8F0000000000) = some .illegalHead ∧
    refusal (headStream 0xC00000000001) = some .illegalHead ∧ refusal (headStream 0xC00000000000) = none ∧
    refusal (State.reset.withFetchWord 6 0) = some .reservedUop ∧
    refusal (State.reset.withFetchWord 6 0x1F) = some .reservedUop ∧
    refusal (State.reset.withFetchWord 6 0x3F) = some .reservedUop ∧ refusal (State.reset.withFetchWord 6 1) = none ∧
    refusal (State.reset.withFetchWord 6 0x1E) = none := by decide +kernel

theorem witness_StepRunsDecodedInstruction :
    decode (State.reset.withFetchWord 48 0x000C00000000).stream = .ok (.rd 0x00C, []) := by rfl

/-- The first and the last register of the map, each at its address, and the last byte of each. -/
theorem witness_RegisterMapIsLittleEndian :
    Reg.ofAddr 0x000 = some .id ∧ (Reg.sintab 255).addr = 0x7FC ∧ Reg.ofAddr 0x7FC = some (.sintab 255) ∧
    State.reset.readByte 0x003 = some 0x4D ∧ State.reset.readByte 0x7FF = some 0xBC := by decide +kernel

theorem witness_ReadReturnsRegister :
    inError.resetSeen = true ∧ Reg.cmd.read inError = 0 ∧ Reg.id.read inError = 0x4D455343 := by decide +kernel

/-- Misaligned by one and by three, unmapped just past the table and at the end, and a read-only register. -/
theorem witness_BadAccessIsBusError :
    State.reset.resetSeen = true ∧ (0x001 : BitVec 12).toNat % 4 ≠ 0 ∧ (0xFFF : BitVec 12).toNat % 4 ≠ 0 ∧
    (∀ r ∈ Reg.all, r.addr ≠ (0x800 : BitVec 12).toNat ∧ r.addr ≠ (0xFFC : BitVec 12).toNat) ∧
    Reg.status.access = .ro ∧ (Reg.sintab 255).access = .ro := by decide +kernel

theorem witness_WriteStoresDefinedFields :
    State.reset.resetSeen = true ∧ Reg.ctrl.access = .rw ∧ Reg.ctrlBw.access = .rw ∧ (Reg.htCw 5).access = .rw := by
  decide +kernel

theorem witness_CommandWordsAreWrites : State.reset.resetSeen = true := by decide

/-- Both clauses of FAULT_RESET: in Error and outside it. -/
theorem witness_CommandsResetFaultAndDirty :
    inError.resetSeen = true ∧ inError.ctl.status.opstate = .error ∧ State.reset.ctl.status.opstate ≠ .error := by decide

theorem witness_RefusalsByName :
    State.reset.beforeReset.resetSeen = false ∧ isTransaction (.clearDirty 0) = true ∧ Instr.clearDirty 0 ≠ .reset ∧
    (inState .hallNearStationary .rlP1).resetSeen = true ∧ executing .hallNearStationary .rlP1 = false ∧
    executing .recovering .rlP1 = false ∧ executing .reserved15 .rlP1 = false ∧ executing .measuring .reserved6 = false ∧
    executing .measuring .reserved7 = false := by decide

theorem witness_TickCompletesAndLatchesPorts :
    (inState .hallRun .rlP1).resetSeen = true ∧ executing .hallRun .reserved7 = true ∧
    executing .measuring .hlRev = true ∧ executing .error .rlP1 = true := by decide

theorem witness_WarmupAveragesOffsets :
    State.reset.pipe.warmupCnt.toNat < 1000 ∧
    (State.reset.onPipe fun x => { x with warmupCnt := 999 }).pipe.warmupCnt.toNat < 1000 ∧
    1000 ≤ (State.reset.onPipe fun x => { x with warmupCnt := 1000 }).pipe.warmupCnt.toNat := by decide

/-- No violation at both limits, and one above and one below; the trip at the third. -/
theorem witness_ProtectCountsAndTrips :
    (¬ ∃ ch : Fin 4, ((guarded 3000 2).pipe.limHi.get ch).toNat < ((guarded 3000 2).pipe.raw.get ch).toNat ∨
      ((guarded 3000 2).pipe.raw.get ch).toNat < ((guarded 3000 2).pipe.limLo.get ch).toNat) ∧
    (∃ ch : Fin 4, ((guarded 3001 2).pipe.limHi.get ch).toNat < ((guarded 3001 2).pipe.raw.get ch).toNat ∨
      ((guarded 3001 2).pipe.raw.get ch).toNat < ((guarded 3001 2).pipe.limLo.get ch).toNat) := by decide +kernel

/-- Hall states 0, 7, an unchanged one, and the first and the last sector changed. -/
theorem witness_HallDetectsEdges :
    (hallAt 0 1 0 0).ctl.hallRaw = 0 ∧ (hallAt 7 1 0 0).ctl.hallRaw = 7 ∧
    ((hallAt 2 2 0 0).ctl.hallRaw ≠ 0 ∧ (hallAt 2 2 0 0).ctl.hallRaw ≠ 7 ∧
      (hallAt 2 2 0 0).ctl.hallRaw = (hallAt 2 2 0 0).ctl.lastHall) ∧
    ((hallAt 1 0 0 0).ctl.hallRaw.toNat = (0 : Fin 6).val + 1 ∧
      (hallAt 1 0 0 0).ctl.hallRaw ≠ (hallAt 1 0 0 0).ctl.lastHall) ∧
    ((hallAt 6 5 0 0).ctl.hallRaw.toNat = (5 : Fin 6).val + 1 ∧
      (hallAt 6 5 0 0).ctl.hallRaw ≠ (hallAt 6 5 0 0).ctl.lastHall) := by decide

/-- A run of TRACK from the reset state. -/
theorem witness_TrackTimeoutAfter3001 :
    ∃ run : Nat → State, (∀ n, exec .track (run n) = .next (run (n + 1))) ∧ (run 0).est.trkCnt = 0 ∧
      (run 0).cyc.hallEvt = none ∧ (run 0).cyc.fluxEvt = none :=
  ⟨fun n => Nat.rec State.reset (fun _ s => uopTrack s) n, fun _ => rfl, rfl, rfl, rfl⟩

/-- Below the divisor, at it, and with the divisor 0. -/
theorem witness_PiRunsEveryNth :
    (controller 2 0 0).foc.piCnt.toNat + 1 < max 1 (controller 2 0 0).ctl.piDiv.toNat ∧
    max 1 (controller 1 0 0).ctl.piDiv.toNat ≤ (controller 1 0 0).foc.piCnt.toNat + 1 ∧
    max 1 (controller 0 0 0).ctl.piDiv.toNat ≤ (controller 0 0 0).foc.piCnt.toNat + 1 := by decide +kernel

theorem witness_PiAntiWindup :
    ((after .pi (controller 1 0xC1F00000 0xC1300000)).map fun t =>
      (F32.isNaN t.foc.intQ, F32.isNaN t.foc.vq, F32.isNaN t.foc.intD, F32.isNaN t.foc.vd)) =
        some (false, false, false, false) ∧
    max 1 (controller 1 0xC1F00000 0xC1300000).ctl.piDiv.toNat ≤
      (controller 1 0xC1F00000 0xC1300000).foc.piCnt.toNat + 1 ∧
    F32.ge (controller 1 0xC1F00000 0xC1300000).foc.vqMax 0 = true ∧
    F32.ge (controller 1 0xC1F00000 0xC1300000).foc.vdMax 0 = true := by decide +kernel

theorem witness_SvpwmStaysInRange : ∃ t, exec .svpwm State.reset = .next t := ⟨_, rfl⟩

/-- Both clauses that enter HallRun, the one that enters identification, and the one that stays. -/
theorem witness_FsmLeavesIdleAndMeasuring :
    (let s := (inState .idle .rlP1).onCtl fun x => { x with run := true, paramsValid := true }
     s.ctl.status.opstate = .idle ∧ s.ctl.status.warmupDone = true ∧ s.ctl.run = true ∧ s.ctl.paramsValid = true) ∧
    (let s := (inState .measuring .rlL).onCtl fun x => { x with paramsValid := true }
     s.ctl.status.opstate = .measuring ∧ s.ctl.paramsValid = true) ∧
    (let s := (inState .idle .rlP1).onCtl fun x => { x with run := true }
     s.ctl.status.opstate = .idle ∧ s.ctl.status.warmupDone = true ∧ s.ctl.run = true ∧ s.ctl.paramsValid = false) ∧
    (¬ (State.reset.ctl.status.opstate = .idle ∧ State.reset.ctl.status.warmupDone = true ∧ State.reset.ctl.run = true) ∧
      ¬ (State.reset.ctl.status.opstate = .measuring ∧ State.reset.ctl.paramsValid = true)) := by decide

/-- Probes 8 and 15; 6; 5 with a table and 0 without. -/
theorem witness_DetectReadsProbe :
    let p (n : BitVec 4) := (inState .detecting .rlP1).onCtl fun x => { x with probe := n }
    8 ≤ (p 8).ctl.probe.toNat ∧ 8 ≤ (p 15).ctl.probe.toNat ∧ (p 6).ctl.probe = 6 ∧ (p 7).ctl.probe = 7 ∧
    ((p 5).ctl.probe.toNat < 6 ∧ (p 5).ctl.status.htValid = true) ∧
    (State.reset.ctl.probe.toNat < 6 ∧ State.reset.ctl.status.htValid = false) := by decide

/-- Identification at count `c` with the thresholds 2, 4, 13. -/
def measuringAt (c : Word) : State :=
  (withRegs [(.measT1, 2), (.measT2, 4), (.measT3, 13)]).onCom fun x => { x with measCnt := c }

/-- The last cycle of the first point, the first and the last of the second. -/
theorem witness_MeasRlOperatingPoints :
    (measuringAt 1).com.measCnt.toNat < (measuringAt 1).com.measT1.toNat ∧
    (measuringAt 2).com.measCnt.toNat < (measuringAt 2).com.measT2.toNat ∧
    (measuringAt 3).com.measCnt.toNat < (measuringAt 3).com.measT2.toNat := by decide +kernel

/-- The resistance cycle; the first cycle of the ripple phase and its last. -/
theorem witness_MeasRlResistanceAndRipple :
    ((measuringAt 4).com.measT1.toNat ≤ (measuringAt 4).com.measCnt.toNat ∧
      (measuringAt 4).com.measCnt.toNat = (measuringAt 4).com.measT2.toNat) ∧
    ((measuringAt 5).com.measT1.toNat ≤ (measuringAt 5).com.measCnt.toNat ∧
      (measuringAt 5).com.measT2.toNat < (measuringAt 5).com.measCnt.toNat ∧
      (measuringAt 5).com.measCnt.toNat < (measuringAt 5).com.measT3.toNat) ∧
    ((measuringAt 12).com.measT1.toNat ≤ (measuringAt 12).com.measCnt.toNat ∧
      (measuringAt 12).com.measT2.toNat < (measuringAt 12).com.measCnt.toNat ∧
      (measuringAt 12).com.measCnt.toNat < (measuringAt 12).com.measT3.toNat) := by decide +kernel

theorem witness_MeasRlCompletes :
    (measuringAt 13).com.measT1.toNat ≤ (measuringAt 13).com.measCnt.toNat ∧
    (measuringAt 13).com.measT2.toNat < (measuringAt 13).com.measCnt.toNat ∧
    (measuringAt 13).com.measT3.toNat ≤ (measuringAt 13).com.measCnt.toNat := by decide +kernel

theorem witness_SweepAccumulates :
    (sweeping 0).ctl.hallRaw.toNat = (0 : Fin 6).val + 1 ∧
    ((sweeping 0).onCtl fun x => { x with hallRaw := 6 }).ctl.hallRaw.toNat = (5 : Fin 6).val + 1 := by decide +kernel

/-- The forward sweep's two cases at their boundary: 65535 ends it and 65534 does not, with step 1. -/
theorem witness_HlFwdSweepsUp :
    (sweeping 65535).ctl.hallRaw.toNat = (0 : Fin 6).val + 1 ∧
    65535 - (sweeping 65535).est.theta.toNat < max 1 (sweeping 65535).com.sweepStep.toNat ∧
    ¬ 65535 - (sweeping 65534).est.theta.toNat < max 1 (sweeping 65534).com.sweepStep.toNat := by decide +kernel

/-- The backward sweep's two cases at their boundary: 0 ends it and 1 does not, with step 1. -/
theorem witness_HlRevSweepsDown :
    (sweeping 0).ctl.hallRaw.toNat = (0 : Fin 6).val + 1 ∧
    (sweeping 0).est.theta.toNat < max 1 (sweeping 0).com.sweepStep.toNat ∧
    max 1 (sweeping 1).com.sweepStep.toNat ≤ (sweeping 1).est.theta.toNat := by decide +kernel

/-- A seen and an unseen sector; LAST_HALL a sector, and none. -/
theorem witness_HlFinishBuildsTable :
    let s := (State.reset.onCom fun x => { x with hl := x.hl.set 1 ⟨3, 0xFFFFFFFB, 100⟩ }).onCtl fun x =>
      { x with lastHall := 6 }
    (s.com.hl.get 0).cnt.toNat = 0 ∧ (s.com.hl.get 1).cnt.toNat ≠ 0 ∧ s.ctl.lastHall.toNat = (5 : Fin 6).val + 1 ∧
    State.reset.ctl.lastHall = 0 := by decide

theorem witness_TickRunsTheTable :
    let s := inState .measuring .hlFwd
    s.resetSeen = true ∧ executing s.ctl.status.opstate s.ctl.status.subphase = true ∧
    (s.ctl.status.faultLatched = true ↔ s.ctl.status.opstate = .error) := by decide

/-- A TICK from HallRun with an invalid Hall state changes OPSTATE. -/
theorem witness_TransitionTable :
    isTransaction (tick 0 0 2048) = true ∧ (tick 0 0 2048).wellFormed = true ∧ (inState .hallRun .rlP1).Inv ∧
    (∃ t, exec (tick 0 0 2048) (inState .hallRun .rlP1) = .next t) ∧
    reads (tick 0 0 2048) (inState .hallRun .rlP1) [.status] = some [0x00201B0A] :=
  ⟨rfl, rfl, inHallRun_inv, next_of_isSome (by decide +kernel), by decide +kernel⟩

/-- FAULT_RESET from Error, and a RESET. -/
theorem witness_StepKeepsInvariant :
    let s := inError.withFetchWord 48 0x400800000001
    s.Inv ∧ transactionsOnly s.stream = true ∧ ∃ t, step s = .next t :=
  ⟨(State.inv_iff _).mpr ((State.inv_iff inError).mp inError_inv), by decide, next_of_not_refused (by decide +kernel)⟩

theorem witness_EveryLegalProgramRuns :
    inError.Inv ∧ ∀ i ∈ [tick 0 0 2048, .faultReset 1 0, .wr 0x008 0, .rd 0xFFF, .reset],
      isTransaction i = true ∧ i.wellFormed = true :=
  ⟨inError_inv, by decide⟩

/-- The hardware break on a state that has it set, and a TICK that presents it. -/
theorem witness_HardwareBreakIsSticky :
    let s := inError.onStatus fun x => { x with hwBrk := true }
    s.ctl.status.hwBrk = true ∧ Instr.faultReset 1 0 ≠ .reset ∧ (∃ t, exec (.faultReset 1 0) s = .next t) ∧
    ∃ t, exec (.tick 1 0 0 0 0 0 0) s = .next t :=
  ⟨rfl, by decide, next_of_isSome (by decide +kernel), next_of_isSome (by decide +kernel)⟩

/-- HallRun, a TICK with Hall state 0. -/
theorem witness_FaultingCycleIsPrecise :
    (inState .hallRun .rlP1).Inv ∧
    ∃ t, exec (tick 0 0 2048) (inState .hallRun .rlP1) = .next t ∧ faultBetween (inState .hallRun .rlP1) t = true :=
  ⟨inHallRun_inv, next_of_after (by decide +kernel)⟩

/-- PROTECT at the third violation. -/
theorem witness_SnapshotOnlyOnOverLimit :
    Instr.protect ≠ .reset ∧
    ∃ t, exec .protect (guarded 3001 2) = .next t ∧ decide (t.ctl.fraw ≠ (guarded 3001 2).ctl.fraw) = true :=
  ⟨by decide, next_of_after (by decide +kernel)⟩

theorem witness_ErrorCycleOnlyBreaks : inError.Inv ∧ inError.ctl.status.opstate = .error := ⟨inError_inv, rfl⟩

/-- Warm-up done in Idle, and a state outside Idle. -/
theorem witness_CyclesKeepConfiguration :
    (∃ t, exec (tick 0 1 2048) (inState .idle .rlP1) = .next t) ∧ (inState .idle .rlP1).ctl.status.warmupDone = true ∧
    (∃ t, exec (tick 0 1 2048) inError = .next t) ∧ inError.ctl.status.opstate ≠ .idle :=
  ⟨next_of_isSome (by decide +kernel), rfl, next_of_isSome (by decide +kernel), by decide⟩

/-- A WR, and a FAULT_RESET in Error, which lowers the software break. -/
theorem witness_OutputsChangeOnlyInCycles :
    ((∃ t, exec (.wr 0x110 1) driving = .next t) ∧ isTransaction (.wr 0x110 1) = true ∧
      Instr.wellFormed (.wr 0x110 1) = true ∧ Instr.wr 0x110 1 ≠ .reset) ∧
    inError.outSwbrk = true ∧ ∃ t, exec (.faultReset 0 0) inError = .next t ∧ !t.outSwbrk = true :=
  ⟨⟨next_of_isSome (by decide +kernel), rfl, by decide, by decide⟩, rfl, next_of_after (by decide +kernel)⟩

/-- A host with its throttle at the deadband. -/
theorem witness_SlowLoopWritesReferences :
    State.reset.resetSeen = true ∧ F32.gt 0x3D4CCCCD 0x3D4CCCCD = false := by decide +kernel

theorem witness_StorageRoundTrip :
    (State.reset.onStatus fun x => { x with dirty := true }).resetSeen = true ∧
    (State.reset.onStatus fun x => { x with dirty := true }).ctl.status.dirty = true ∧
    inError.resetSeen = true := by decide

end Sys2Proof.Tests
end

section
/-! PROOFS. The register space (20_memory.md): the address map is a bijection, bad accesses are bus errors, and a write
stores the defined fields of one register. -/

namespace Sys2Proof.Machine

/-! ## The address map -/

/-- Every register sits inside the 4 KiB register space (20_memory.md R100). -/
theorem Reg.addr_lt (r : Reg) : r.addr < 4096 := by
  cases r <;> simp only [Reg.addr] <;> omega

/-- Every register sits at an aligned address (20_memory.md R103). -/
theorem Reg.addr_aligned (r : Reg) : r.addr % 4 = 0 := by
  cases r <;> simp only [Reg.addr] <;> omega

/-- The names of a row of the map are registers whose own address is the row's. -/
theorem regMap_addr : ∀ row ∈ regMap, ∀ k < row.count, (row.name k).addr = row.base + k * row.stride := by
  decide +kernel

/-- A row finds a register only at that register's own address. -/
theorem RegRow.addr_of_at? {row : RegRow} {a : Nat} {r : Reg}
    (names : ∀ k < row.count, (row.name k).addr = row.base + k * row.stride) (h : row.at? a = some r) :
    r.addr = a := by
  unfold RegRow.at? at h
  split at h
  · next found =>
    obtain ⟨lo, hi, aligned⟩ := found
    have index : (a - row.base) / row.stride < row.count := Nat.div_lt_of_lt_mul (by rw [Nat.mul_comm]; omega)
    have whole := Nat.div_mul_cancel (Nat.dvd_of_mod_eq_zero aligned)
    cases h
    rw [names _ index]
    omega
  · cases h

/-- What is found at an address has that address (10_state.md R31). -/
theorem Reg.addr_of_ofAddr {a : BitVec 12} {r : Reg} (h : Reg.ofAddr a = some r) : r.addr = a.toNat := by
  obtain ⟨row, mem, found⟩ := List.exists_of_findSome?_eq_some h
  exact RegRow.addr_of_at? (regMap_addr row mem) found

/-- Nothing is found at a misaligned or unmapped address (20_memory.md R103, R105). -/
theorem Reg.ofAddr_eq_none {a : BitVec 12} (h : a.toNat % 4 ≠ 0 ∨ ∀ r : Reg, r.addr ≠ a.toNat) :
    Reg.ofAddr a = none := by
  cases found : Reg.ofAddr a with
  | none => rfl
  | some r =>
    have here := Reg.addr_of_ofAddr found
    have aligned := r.addr_aligned
    rcases h with misaligned | unmapped
    · exact absurd (here ▸ aligned) misaligned
    · exact absurd here (unmapped r)

/-! ## Bytes -/

/-- Clearing the two low address bits leaves the address of the word. -/
theorem toNat_and_wordMask (a : BitVec 12) : (a &&& 0xFFC).toNat = a.toNat / 4 * 4 := by
  have mask : a &&& (0xFFC : BitVec 12) = (a >>> 2) <<< 2 := by
    ext i hi
    interval_cases i <;> simp
  rw [mask, BitVec.toNat_shiftLeft, BitVec.toNat_ushiftRight, Nat.shiftRight_eq_div_pow, Nat.shiftLeft_eq]
  omega

/-- The bytes of a word belong to its register. -/
theorem State.readByte_addr_add (s : State) (r : Reg) (j : Fin 4) :
    s.readByte (BitVec.ofNat 12 (r.addr + j.val)) = some ((r.read s).extractLsb' (8 * j.val) 8) := by
  have bound := r.addr_lt
  have aligned := r.addr_aligned
  have offset : (BitVec.ofNat 12 (r.addr + j.val)).toNat = r.addr + j.val := by
    rw [BitVec.toNat_ofNat]; omega
  have word : BitVec.ofNat 12 (r.addr + j.val) &&& 0xFFC = r.busAddr := by
    apply BitVec.eq_of_toNat_eq
    rw [toNat_and_wordMask, offset, Reg.busAddr, BitVec.toNat_ofNat]
    omega
  have lane : (r.addr + j.val) % 4 = j.val := by omega
  rw [State.readByte, word, offset, lane, Reg.ofAddr_busAddr, Option.map_some]

/-- When only one register may change, the bytes outside its word stay: each belongs to another register, found at an
address of its own. -/
theorem State.readByte_of_regsFixedBut {s t : State} {r : Reg} (h : RegsFixedBut [r] s t) {b : BitVec 12}
    (outside : b.toNat / 4 ≠ r.addr / 4) : t.readByte b = s.readByte b := by
  unfold State.readByte
  cases found : Reg.ofAddr (b &&& 0xFFC) with
  | none => rfl
  | some q =>
    have here := Reg.addr_of_ofAddr found
    rw [toNat_and_wordMask] at here
    have other : q ≠ r := by rintro rfl; omega
    simp [h q (by simpa using other)]

/-- Settles O6: a row of the map finds a register only at its own address, and the low two address bits pick the byte. -/
theorem registerMapIsLittleEndian : Obligations.RegisterMapIsLittleEndian :=
  ⟨fun r => ⟨r.addr_lt, r.addr_aligned, r.ofAddr_busAddr⟩,
    fun _ _ => Reg.addr_of_ofAddr, State.readByte_addr_add⟩

/-! ## Host transactions -/

/-- No register shows the responses given. -/
@[simp] theorem Reg.read_respond (r : Reg) (s : State) (x : Response) : r.read (s.respond x) = r.read s := rfl

/-- Giving a response changes no register, no cycle-local value and no other record. -/
theorem hostFrame_respond (s : State) (x : Response) : HostFrame [] x s (s.respond x) :=
  ⟨fun r _ => r.read_respond s x, rfl, rfl, rfl, rfl⟩

/-- After the first RESET an RD is the host read (46_host_interface.md R370). -/
theorem exec_rd_of_seen {s : State} (h : s.resetSeen = true) (a : BitVec 12) :
    exec (.rd a) s = .next (hostRead a s) :=
  afterReset_of_seen h fun s => .next (hostRead a s)

/-- After the first RESET a WR is the host write (46_host_interface.md R371). -/
theorem exec_wr_of_seen {s : State} (h : s.resetSeen = true) (a : BitVec 12) (v : Word) :
    exec (.wr a v) s = .next (hostWrite a v s) :=
  afterReset_of_seen h fun s => .next (hostWrite a v s)

/-- Nothing is read where nothing is mapped (20_memory.md R105). -/
theorem hostRead_of_none {a : BitVec 12} (h : Reg.ofAddr a = none) (s : State) :
    hostRead a s = s.respond (.busError a) := by
  simp [hostRead, h]

/-- Nothing is written where nothing is mapped (20_memory.md R105). -/
theorem hostWrite_of_none {a : BitVec 12} (h : Reg.ofAddr a = none) (v : Word) (s : State) :
    hostWrite a v s = s.respond (.busError a) := by
  simp [hostWrite, h]

/-- A read-only register is not written (20_memory.md R106). -/
theorem hostWrite_of_ro {r : Reg} (h : r.access = .ro) (v : Word) (s : State) :
    hostWrite r.busAddr v s = s.respond (.busError r.busAddr) := by
  simp [hostWrite, h]

/-- An RW register is written (20_memory.md R104). -/
theorem hostWrite_of_rw {r : Reg} (h : r.access = .rw) (v : Word) (s : State) :
    hostWrite r.busAddr v s = (r.write v s).respond .ok := by
  simp [hostWrite, h]

/-- Settles O8: at a bad address no register is found, and a read-only register's write is only a response. -/
theorem badAccessIsBusError : Obligations.BadAccessIsBusError := by
  refine ⟨fun s a v seen bad => ?_, fun s r v seen ro => ?_, fun s a => hostFrame_respond s _⟩
  · have unmapped := Reg.ofAddr_eq_none bad
    rw [exec_rd_of_seen seen, hostRead_of_none unmapped, exec_wr_of_seen seen, hostWrite_of_none unmapped]
    exact ⟨rfl, rfl⟩
  · rw [exec_wr_of_seen seen, hostWrite_of_ro ro]

/-! ## Defined fields -/

/-- The bits of `x` outside `mask` are 0 (20_memory.md R107). -/
def FieldsWithin {n : Nat} (mask x : BitVec n) : Prop := x &&& ~~~ mask = 0

/-- A word laid out as the mask is keeps to it when each part does. -/
theorem FieldsWithin.append {w n : Nat} {mask x : BitVec w} {mask' x' : BitVec n} (h : FieldsWithin mask x)
    (h' : FieldsWithin mask' x') : FieldsWithin (mask ++ mask') (x ++ x') := by
  unfold FieldsWithin at *
  rw [BitVec.not_append, BitVec.and_append, h, h']
  exact BitVec.zero_append_zero

/-- Where every bit is defined there is nothing to keep to. -/
theorem FieldsWithin.all {n : Nat} (x : BitVec n) : FieldsWithin (BitVec.allOnes n) x := by
  simp [FieldsWithin]

/-- A reserved part reads 0. -/
theorem FieldsWithin.zero {n : Nat} (mask : BitVec n) : FieldsWithin mask 0 := by
  simp [FieldsWithin]

/-- The layout goes on below with a defined field. -/
theorem FieldsWithin.field {w n : Nat} {mask x : BitVec w} (h : FieldsWithin mask x) (y : BitVec n) :
    FieldsWithin (mask ++ BitVec.allOnes n) (x ++ y) :=
  h.append (.all y)

/-- The layout goes on below with reserved bits. -/
theorem FieldsWithin.gap {w : Nat} {mask x : BitVec w} (h : FieldsWithin mask x) (n : Nat) :
    FieldsWithin (mask ++ (0 : BitVec n)) (x ++ (0 : BitVec n)) :=
  h.append (.zero 0)

/-- A single field at bit 0. -/
theorem FieldsWithin.setWidth {w : Nat} (x : BitVec w) :
    FieldsWithin ((BitVec.allOnes w).setWidth 32) (x.setWidth 32) := by
  unfold FieldsWithin
  ext i hi
  by_cases inside : i < w
  · simp [inside]
  · simp [inside, BitVec.getLsbD_of_ge x i (Nat.le_of_not_lt inside)]

/-- The layout of STATUS, high bits first (10_state.md R36, R37). -/
theorem Status.toWord_fieldsWithin (t : Status) : FieldsWithin Reg.status.fieldMask t.toWord := by
  have layout := FieldsWithin.zero (0 : BitVec 10)
    |>.field (BitVec.ofBool t.fluxSign) |>.field (BitVec.ofBool t.dir) |>.field t.lastSrc.bits
    |>.field (BitVec.ofBool t.evtSeen) |>.field t.clarkVar.bits |>.gap 2
    |>.field (BitVec.ofBool t.dirty) |>.field (BitVec.ofBool t.htValid) |>.field (BitVec.ofBool t.warmupDone)
    |>.field (BitVec.ofBool t.hwBrk) |>.field (BitVec.ofBool t.swBrk) |>.field (BitVec.ofBool t.faultLatched)
    |>.gap 1 |>.field t.subphase.bits |>.field t.opstate.bits
  exact layout

/-- Reserved bits read 0: each register's layout against its mask (20_memory.md R107). -/
theorem Reg.read_fieldsWithin (r : Reg) (s : State) : FieldsWithin r.fieldMask (r.read s) := by
  cases r with
  | ctrl =>
    exact FieldsWithin.zero (0 : BitVec 30) |>.field (BitVec.ofBool s.ctl.paramsValid)
      |>.field (BitVec.ofBool s.ctl.run)
  | cmd => exact .zero _
  | status => exact s.ctl.status.toWord_fieldsWithin
  | fault => exact FieldsWithin.zero (0 : BitVec 16) |>.field s.ctl.violCnt |>.gap 5 |>.field s.ctl.code.bits
  | hallio =>
    exact FieldsWithin.zero (0 : BitVec 20) |>.field s.ctl.probe |>.gap 1 |>.field s.ctl.lastHall |>.gap 1
      |>.field s.ctl.hallRaw
  | phaseEn =>
    exact FieldsWithin.zero (0 : BitVec 29) |>.field (BitVec.ofBool s.foc.phaseEn.c)
      |>.field (BitVec.ofBool s.foc.phaseEn.b) |>.field (BitVec.ofBool s.foc.phaseEn.a)
  | cfg | piCnt | fluxBlk => exact .setWidth (w := 8) _
  | fraw | pwmFull | clarkSat | raw | limHi | limLo | warmupCnt | ccr | theta | lastEvt | lastHallCenter | measDuty
  | sweepStep | hlRef => exact .setWidth (w := 16) _
  | _ => exact .all _

/-! ## What a register write stores -/

/-- What a field of `w` bits at bit 0 keeps of a written word. -/
theorem setWidth_setWidth_eq_and {w : Nat} (v : Word) :
    (v.setWidth w).setWidth 32 = v &&& (BitVec.allOnes w).setWidth 32 := by
  ext i hi
  by_cases inside : i < w <;> simp [hi, inside]

/-- The two bits of CTRL keep of a written word what one field of two bits would. -/
theorem bits_append (v : Word) :
    (0 : BitVec 30) ++ BitVec.ofBool (v.getLsbD 1) ++ BitVec.ofBool (v.getLsbD 0) = (v.setWidth 2).setWidth 32 := by
  ext i hi
  grind

/-- An RW register that was written reads the written value under its field mask (20_memory.md R104, R107). -/
theorem Reg.read_write_same {r : Reg} (h : r.access = .rw) (v : Word) (s : State) :
    r.read (r.write v s) = v &&& r.fieldMask := by
  have whole : v = v &&& 0xFFFFFFFF := BitVec.and_allOnes.symm
  cases r <;> cases h
  case ctrl => exact (bits_append v).trans (setWidth_setWidth_eq_and v)
  case cfg | pwmFull | clarkSat | theta | sweepStep => exact setWidth_setWidth_eq_and v
  case limHi | limLo =>
    simp only [Reg.read, Reg.write, State.onPipe_pipe, Chan.get_set, ↓reduceIte]
    exact setWidth_setWidth_eq_and v
  case gain | offset =>
    simp only [Reg.read, Reg.write, State.onPipe_pipe, Chan.get_set, ↓reduceIte]
    exact whole
  case htSe | htCw =>
    simp only [Reg.read, Reg.write, State.onMot_mot, Sector.get_set, ↓reduceIte]
    exact (BitVec.extractLsb'_append_extractLsb' (w := 16) (len := 16)).trans whole
  all_goals exact whole

/-! ## What a register write leaves alone

One equation per group of the state: a register write replaces the fields of the register it names and no others. -/

/-- A bank is made of its channels. -/
@[simp] theorem Chan.ofFn_get {α : Type} (x : Chan α) : Chan.ofFn x.get = x := rfl

/-- What a register write leaves of the control group. -/
theorem Reg.write_ctl (r : Reg) (v : Word) (s : State) :
    (r.write v s).ctl =
      { s.ctl with
        run := if .ctrl = r then v.getLsbD 0 else s.ctl.run
        paramsValid := if .ctrl = r then v.getLsbD 1 else s.ctl.paramsValid
        piDiv := if .cfg = r then v.setWidth 8 else s.ctl.piDiv
        pwmFull := if .pwmFull = r then v.setWidth 16 else s.ctl.pwmFull
        clarkSat := if .clarkSat = r then v.setWidth 16 else s.ctl.clarkSat
        tPwm := if .tPwm = r then v else s.ctl.tPwm
        vabToPwm := if .vabToPwm = r then v else s.ctl.vabToPwm } := by
  cases r <;> rfl

/-- What a register write leaves of the signal pipeline. -/
theorem Reg.write_pipe (r : Reg) (v : Word) (s : State) :
    (r.write v s).pipe =
      { s.pipe with
        gain := Chan.ofFn fun k => if .gain k = r then v else s.pipe.gain.get k
        offset := Chan.ofFn fun k => if .offset k = r then v else s.pipe.offset.get k
        limHi := Chan.ofFn fun k => if .limHi k = r then v.setWidth 16 else s.pipe.limHi.get k
        limLo := Chan.ofFn fun k => if .limLo k = r then v.setWidth 16 else s.pipe.limLo.get k } := by
  cases r <;> simp [Reg.write, Chan.set]

/-- What a register write leaves of the controller. -/
theorem Reg.write_foc (r : Reg) (v : Word) (s : State) :
    (r.write v s).foc =
      { s.foc with
        idReq := if .idReq = r then v else s.foc.idReq
        iqReq := if .iqReq = r then v else s.foc.iqReq
        kpD := if .kpD = r then v else s.foc.kpD
        kpQ := if .kpQ = r then v else s.foc.kpQ
        kiD := if .kiD = r then v else s.foc.kiD
        kiQ := if .kiQ = r then v else s.foc.kiQ
        vdMax := if .vdMax = r then v else s.foc.vdMax
        vqMax := if .vqMax = r then v else s.foc.vqMax } := by
  cases r <;> rfl

/-- What a register write leaves of the estimator. -/
theorem Reg.write_est (r : Reg) (v : Word) (s : State) :
    (r.write v s).est =
      { s.est with
        theta := if .theta = r then v.setWidth 16 else s.est.theta
        trkAlpha := if .trkAlpha = r then v else s.est.trkAlpha
        trkKerr := if .trkKerr = r then v else s.est.trkKerr
        trkRestart := if .trkRestart = r then v else s.est.trkRestart } := by
  cases r <;> rfl

/-- The entry of sector `k + 1` in the Hall table after a write of `v` to `r`. -/
def Reg.writtenEntry (r : Reg) (v : Word) (s : State) (k : Fin 6) : HallEntry where
  start := if .htSe k = r then v.extractLsb' 0 16 else (s.mot.ht.get k).start
  stop := if .htSe k = r then v.extractLsb' 16 16 else (s.mot.ht.get k).stop
  center := if .htCw k = r then v.extractLsb' 0 16 else (s.mot.ht.get k).center
  width := if .htCw k = r then v.extractLsb' 16 16 else (s.mot.ht.get k).width

/-- What a register write leaves of the motor parameters and the Hall table. -/
theorem Reg.write_mot (r : Reg) (v : Word) (s : State) :
    (r.write v s).mot =
      { rPhase := if .rPhase = r then v else s.mot.rPhase
        lPhase := if .lPhase = r then v else s.mot.lPhase
        fluxLink := if .fluxLink = r then v else s.mot.fluxLink
        iMax := if .iMax = r then v else s.mot.iMax
        ht := Sector.ofFn (r.writtenEntry v s) } := by
  cases r
  case htSe k | htCw k =>
    refine congrArg (fun entry => { s.mot with ht := Sector.ofFn entry }) (funext fun j => ?_)
    by_cases h : j = k <;> simp [h, Reg.writtenEntry]
  all_goals rfl

/-- What a register write leaves of the self-commissioning group. -/
theorem Reg.write_com (r : Reg) (v : Word) (s : State) :
    (r.write v s).com =
      { s.com with
        iTgt1 := if .iTgt1 = r then v else s.com.iTgt1
        iTgt2 := if .iTgt2 = r then v else s.com.iTgt2
        iBand := if .iBand = r then v else s.com.iBand
        measK := if .measK = r then v else s.com.measK
        measT1 := if .measT1 = r then v else s.com.measT1
        measT2 := if .measT2 = r then v else s.com.measT2
        measT3 := if .measT3 = r then v else s.com.measT3
        lFloor := if .lFloor = r then v else s.com.lFloor
        vInj := if .vInj = r then v else s.com.vInj
        alignT := if .alignT = r then v else s.com.alignT
        sweepStep := if .sweepStep = r then v.setWidth 16 else s.com.sweepStep
        ctrlBw := if .ctrlBw = r then v else s.com.ctrlBw } := by
  cases r <;> rfl

/-- A register write changes no other register: none of the fields a register shows is one that another's write
replaces. -/
theorem Reg.read_write_of_ne {q r : Reg} (h : q ≠ r) (v : Word) (s : State) : q.read (r.write v s) = q.read s := by
  cases q <;>
    simp [Reg.read, Reg.write_ctl, Reg.write_pipe, Reg.write_foc, Reg.write_est, Reg.write_mot, Reg.write_com,
      Reg.writtenEntry, h]

/-- A completed write changes at most the register written. -/
theorem regsFixedBut_write (r : Reg) (v : Word) (s : State) : RegsFixedBut [r] s ((r.write v s).respond .ok) := by
  intro q other
  rw [Reg.read_respond, Reg.read_write_of_ne (List.ne_of_not_mem_cons other)]

/-- The frame of a completed write. -/
theorem hostFrame_write (r : Reg) (v : Word) (s : State) : HostFrame [r] .ok s ((r.write v s).respond .ok) := by
  obtain ⟨-, ⟨seen, stream, responses⟩, cyc⟩ := r.write_keeps v s
  exact ⟨regsFixedBut_write r v s, cyc, seen, stream, congrArg (· ++ [Response.ok]) responses⟩

/-- Settles O9: the write replaces the register's own fields, which read back under the mask, and no other register or
byte shows them. -/
theorem writeStoresDefinedFields : Obligations.WriteStoresDefinedFields := by
  refine ⟨fun s r => r.read_fieldsWithin s, fun s r v seen rw => ⟨(r.write v s).respond .ok, ?_, ?_, ?_, ?_⟩⟩
  · rw [exec_wr_of_seen seen, hostWrite_of_rw rw]
  · rw [Reg.read_respond, Reg.read_write_same rw]
  · exact hostFrame_write r v s
  · exact fun b outside => State.readByte_of_regsFixedBut (regsFixedBut_write r v s) outside

end Sys2Proof.Machine
end

section
/-! PROOFS. The reserved encodings (30_encoding.md R140, R144): a step is refused for the form of its first word exactly
when the decoder rejects that word. -/

namespace Sys2Proof.Machine

/-! ## What a meaning refuses -/

/-- A transaction that is refused came before the first RESET or is refused by its own meaning
(70_reset_and_hazards.md R451). -/
theorem afterReset_refused {s : State} {k : State → Host.Outcome State Fault Refusal} {r : Refusal}
    (h : afterReset s k = .refused r) : r = .beforeReset ∨ k s = .refused r := by
  cases seen : s.resetSeen with
  | false =>
    rw [afterReset_of_unseen seen] at h
    cases h
    exact .inl rfl
  | true => exact .inr (afterReset_of_seen seen k ▸ h)

/-- A TICK's own meaning refuses only a state without a sequence (44_state_machine.md R301). -/
theorem tickWith_refused {p : Ports} {s : State} {r : Refusal} (h : tickWith p s = .refused r) :
    r = .placeholderState := by
  unfold tickWith at h
  split at h <;> cases h
  rfl

/-- A meaning refuses for one of two reasons, and neither is the form of a word (70_reset_and_hazards.md R451,
44_state_machine.md R301). -/
theorem exec_refused {i : Instr} {s : State} {r : Refusal} (h : exec i s = .refused r) :
    r = .beforeReset ∨ r = .placeholderState := by
  cases i
  case tick =>
    unfold exec execTick at h
    exact (afterReset_refused h).imp_right tickWith_refused
  case rd | wr | faultReset | clearDirty =>
    simp only [exec, execRd, execWr, execFaultReset, execClearDirty] at h
    exact .inl ((afterReset_refused h).resolve_right nofun)
  all_goals cases h

/-! ## What the fetch refuses -/

/-- The fetch refuses exactly the streams the decoder rejects, for the reason of the rejection. -/
theorem fetch_refuse_iff (ws : List BusWord) (r : Refusal) :
    fetch ws = .refuse r ↔ ∃ e, decode ws = .error e ∧ refusalOf e = some r := by
  unfold fetch
  cases decode ws with
  | ok p => simp
  | error e => cases e <;> simp [refusalOf]

/-- A refusal of the fetch names the decoder's error. -/
theorem refusalOf_inj {d e : DecodeError} {r : Refusal} (hd : refusalOf d = some r) (he : refusalOf e = some r) :
    d = e := by
  cases e <;> cases he <;> cases d <;> cases hd <;> rfl

/-- A step is refused for a decoder's error exactly where the decoder finds that error: no meaning refuses for it. -/
theorem step_refused_iff_decode {e : DecodeError} {r : Refusal} (reason : refusalOf e = some r) (s : State) :
    step s = .refused r ↔ decode s.stream = .error e := by
  have notExec (i : Instr) (t : State) : exec i t ≠ .refused r := fun refused => by
    obtain rfl | rfl := exec_refused refused <;> cases e <;> cases reason
  have byFetch : step s = .refused r ↔ fetch s.stream = .refuse r := by
    unfold step
    cases fetch s.stream <;> simp [notExec]
  rw [byFetch, fetch_refuse_iff]
  exact ⟨fun ⟨_, rejected, same⟩ => refusalOf_inj same reason ▸ rejected, fun rejected => ⟨e, rejected, reason⟩⟩

/-! ## What the decoder rejects -/

/-- A head is rejected for its reserved bits exactly when it is not legal. -/
theorem decode_head_reservedBits_iff (h : BitVec 48) (rest : List BusWord) :
    decode (.head h :: rest) = .error .reservedBits ↔ headLegal h = false := by
  simp only [decode]
  cases headLegal h with
  | false => simp
  | true =>
    simp only [if_true]
    split
    case h_3 => split <;> simp
    all_goals simp

/-- A uop id is rejected exactly when the table has no uop for it. -/
theorem decode_uop_reservedUop_iff (id : BitVec 6) (rest : List BusWord) :
    decode (.uop id :: rest) = .error .reservedUop ↔ decodeUop id = none := by
  simp only [decode]
  cases decodeUop id <;> simp

/-- The table of uops leaves the ids 0x00 and 0x1F to 0x3F without a uop (30_encoding.md R143, R144). -/
theorem decodeUop_eq_none_iff : ∀ id : BitVec 6, decodeUop id = none ↔ id.toNat = 0 ∨ 0x1F ≤ id.toNat := by
  decide

/-- Bits [45:40] of a head are its reserved bits and the top four bits of ADDR (30_encoding.md R132). -/
theorem head_bits_45_40_eq_zero_iff (h : BitVec 48) :
    h.extractLsb' 40 6 = 0 ↔ headReserved h = 0 ∧ (headAddr h).extractLsb' 8 4 = 0 := by
  simp only [headReserved, headAddr, ← BitVec.toNat_inj, BitVec.extractLsb'_toNat, Nat.shiftRight_eq_div_pow,
    BitVec.ofNat_eq_ofNat, BitVec.toNat_ofNat]
  omega

/-- The four values of a head's OP (30_encoding.md R132). -/
theorem op_cases : ∀ op : BitVec 2, op = 0 ∨ op = 1 ∨ op = 2 ∨ op = 3 := by decide

/-- The four ways a head has a reserved bit set (30_encoding.md R140). -/
theorem headLegal_eq_false_iff (h : BitVec 48) :
    headLegal h = false ↔
      headReserved h ≠ 0 ∨ (headOp h ≠ 1 ∧ headData h ≠ 0) ∨ (headOp h = 3 ∧ headAddr h ≠ 0) ∨
        (headOp h = 2 ∧ h.extractLsb' 40 6 ≠ 0) := by
  simp only [ne_eq, head_bits_45_40_eq_zero_iff, headLegal]
  obtain op | op | op | op := op_cases (headOp h) <;> simp [op] <;> tauto

/-- Settles O4: no meaning refuses for the form of a word, so a step refuses exactly what the decoder rejects. -/
theorem reservedEncodingsRefused : Obligations.ReservedEncodingsRefused := by
  refine ⟨fun s h rest stream => ?_, fun s id rest stream => ?_⟩
  · rw [step_refused_iff_decode (e := .reservedBits) rfl, stream, decode_head_reservedBits_iff]
    exact headLegal_eq_false_iff h
  · rw [step_refused_iff_decode (e := .reservedUop) rfl, stream, decode_uop_reservedUop_iff]
    exact decodeUop_eq_none_iff id

end Sys2Proof.Machine
end

section
/-! PROOFS. The signal pipeline (40_signal_pipeline.md): what CONVERT, WARMUP, CLARKSEL and SINCOS compute and what they
leave alone. -/

namespace Sys2Proof.Machine

/-! ## Frames of micro-operations -/

/-- Two micro-operations one after the other change at most what either may change. -/
theorem UopFrame.trans {ws ws' : List Reg} {s t u : State} (h : UopFrame ws s t) (g : UopFrame ws' t u) :
    UopFrame (ws ++ ws') s u := by
  obtain ⟨regs, cyc, records⟩ := h
  obtain ⟨regs', cyc', records'⟩ := g
  refine ⟨fun r other => ?_, cyc'.trans cyc, records.trans records'⟩
  obtain ⟨inFirst, inSecond⟩ := not_or.mp fun m => other (List.mem_append.mpr m)
  exact (regs' r inSecond).trans (regs r inFirst)

/-- A change of the STATUS fields changes no register but STATUS (10_state.md R36). -/
theorem uopFrame_onStatus (f : Status → Status) (s : State) : UopFrame [.status] s (s.onStatus f) := by
  refine ⟨fun r other => ?_, rfl, rfl, rfl, rfl⟩
  cases r
  case status => simp at other
  all_goals rfl

/-! ## CLARKSEL -/

/-- The three ways a phase has the largest compare value, the lowest such phase on a tie (40_signal_pipeline.md R164). -/
theorem largestPhase_cases (ccr : Phase Half) :
    (largestPhase ccr = 0 ∧ ccr.b.toNat ≤ ccr.a.toNat ∧ ccr.c.toNat ≤ ccr.a.toNat) ∨
    (largestPhase ccr = 1 ∧ ccr.a.toNat < ccr.b.toNat ∧ ccr.c.toNat ≤ ccr.b.toNat) ∨
    (largestPhase ccr = 2 ∧ ccr.a.toNat < ccr.c.toNat ∧ ccr.b.toNat < ccr.c.toNat) := by
  by_cases ab : ccr.a.toNat < ccr.b.toNat
  · by_cases bc : ccr.b.toNat < ccr.c.toNat
    · exact .inr (.inr ⟨by simp [largestPhase, Phase.get, ab, bc], ab.trans bc, bc⟩)
    · exact .inr (.inl ⟨by simp [largestPhase, Phase.get, ab, bc], ab, not_lt.mp bc⟩)
  · by_cases ac : ccr.a.toNat < ccr.c.toNat
    · exact .inr (.inr ⟨by simp [largestPhase, Phase.get, ab, ac], ac, (not_lt.mp ab).trans_lt ac⟩)
    · exact .inl ⟨by simp [largestPhase, Phase.get, ab, ac], not_lt.mp ab, not_lt.mp ac⟩

/-- No phase has a larger compare value. -/
theorem le_largestPhase (ccr : Phase Half) (k : Fin 3) :
    (ccr.get k).toNat ≤ (ccr.get (largestPhase ccr)).toNat := by
  obtain ⟨m, ha, hb⟩ | ⟨m, ha, hb⟩ | ⟨m, ha, hb⟩ := largestPhase_cases ccr
  all_goals
    rw [m]
    fin_cases k <;> simp only [Phase.get] <;> omega

/-- Every lower phase has a smaller compare value. -/
theorem lt_largestPhase {ccr : Phase Half} {k : Fin 3} (lower : k < largestPhase ccr) :
    (ccr.get k).toNat < (ccr.get (largestPhase ccr)).toNat := by
  obtain ⟨m, -, -⟩ | ⟨m, first, -⟩ | ⟨m, first, second⟩ := largestPhase_cases ccr <;> rw [m] at lower ⊢
  · exact absurd lower k.not_lt_zero
  · obtain rfl : k = 0 := by omega
    exact first
  · obtain rfl | rfl : k = 0 ∨ k = 1 := by omega
    · exact first
    · exact second

/-- CLARK_VAR names the excluded phase by its index and one (10_state.md R37). -/
theorem excluding_bits (m : Fin 3) : (excluding m).bits.toNat = m.val + 1 := by
  fin_cases m <;> rfl

/-- The code of CLARKSEL's choice (40_signal_pipeline.md R164). -/
theorem clarkChoice_bits (ccr : Phase Half) (sat : Half) :
    (clarkChoice ccr sat).bits.toNat =
      if sat.toNat < (ccr.get (largestPhase ccr)).toNat then (largestPhase ccr).val + 1 else 0 := by
  unfold clarkChoice
  dsimp only
  split
  · exact excluding_bits _
  · rfl

/-- The instruction of a variant is the transform the variant names. -/
theorem exec_clarkInstr (v : ClarkVar) (s : State) : exec (clarkInstr v) s = .next (uopClark v s) := by
  cases v <;> rfl

/-- Every Clark transform ends by writing the stationary-frame current (40_signal_pipeline.md R165 to R168). -/
theorem uopClark_eq_setIab (v : ClarkVar) (s : State) : ∃ alpha beta, uopClark v s = setIab alpha beta s := by
  cases v <;> exact ⟨_, _, rfl⟩

/-- Writing the stationary-frame current changes no other register. -/
theorem uopFrame_setIab (alpha beta : Word) (s : State) : UopFrame [.iAlpha, .iBeta] s (setIab alpha beta s) := by
  refine ⟨fun r other => ?_, rfl, rfl, rfl, rfl⟩
  cases r
  case iAlpha | iBeta => simp at other
  all_goals rfl

/-- Settles O18: the choice is by the largest compare value, and the transform it names writes only the
stationary-frame current. -/
theorem clarkselExcludesMostSaturated : Obligations.ClarkselExcludesMostSaturated := by
  refine ⟨fun rest => rfl, fun s => ?_⟩
  let var := clarkChoice s.foc.ccr s.ctl.clarkSat
  let chosen := s.onStatus fun x => { x with clarkVar := var }
  obtain ⟨alpha, beta, current⟩ := uopClark_eq_setIab var chosen
  refine ⟨largestPhase s.foc.ccr, var, uopClark var chosen, le_largestPhase _, fun k => lt_largestPhase,
    clarkChoice_bits _ _, rfl, ?_, exec_clarkInstr var chosen, ?_⟩
  · rw [current]
    rfl
  · rw [current]
    exact (uopFrame_onStatus _ s).trans (uopFrame_setIab alpha beta chosen)

/-! ## Free values of binary32 results

An operation on finite operands gives no NaN, so its result does not depend on the free sign and payload (00_scope.md
R20). -/

/-- A finite pattern is neither a NaN nor an infinity. -/
theorem F32.not_isNaN_isInf_of_isFinite {a : Word} (h : F32.isFinite a = true) :
    F32.isNaN a = false ∧ F32.isInf a = false := by
  have exponent : (F32.expo a == 255) = false := by simpa [F32.isFinite] using h
  simp [F32.isNaN, F32.isInf, exponent]

/-- A product of finite numbers takes no free value. -/
theorem F32.mul_of_isFinite {a b : Word} (ha : F32.isFinite a = true) (hb : F32.isFinite b = true)
    (q q' : BitVec 23) : F32.mul q a b = F32.mul q' a b := by
  obtain ⟨aNum, aFin⟩ := F32.not_isNaN_isInf_of_isFinite ha
  obtain ⟨bNum, bFin⟩ := F32.not_isNaN_isInf_of_isFinite hb
  simp [F32.mul, aNum, aFin, bNum, bFin]

/-- A sum of finite numbers takes no free value. -/
theorem F32.add_of_isFinite {a b : Word} (ha : F32.isFinite a = true) (hb : F32.isFinite b = true)
    (q q' : BitVec 23) : F32.add q a b = F32.add q' a b := by
  obtain ⟨aNum, aFin⟩ := F32.not_isNaN_isInf_of_isFinite ha
  obtain ⟨bNum, bFin⟩ := F32.not_isNaN_isInf_of_isFinite hb
  simp [F32.add, aNum, aFin, bNum, bFin]

/-! ## SINCOS -/

/-- The square of a table entry, with the free value at 0. -/
def sintabSquare (k : Fin 256) : Word := F32.mul 0 (sintab k) (sintab k)

/-- Every table entry is a finite number (10_state.md R90). -/
theorem sintab_isFinite : ∀ k : Fin 256, F32.isFinite (sintab k) = true := by decide +kernel

/-- So is its square. -/
theorem sintabSquare_isFinite : ∀ k : Fin 256, F32.isFinite (sintabSquare k) = true := by decide +kernel

/-- Each entry and the one a quarter of the table ahead lie on the unit circle within 2^-22 (40_signal_pipeline.md
R170): a fact of the 256 table entries. -/
theorem sintabSquares_near_one : ∀ k : Fin 256,
    F32.le 0x3F7FFFFC (F32.add 0 (sintabSquare k) (sintabSquare (k + 64))) = true ∧
    F32.le (F32.add 0 (sintabSquare k) (sintabSquare (k + 64))) 0x3F800002 = true := by
  decide +kernel

/-- The square of a table entry, whatever the free value. -/
theorem mul_sintab_self (q : BitVec 23) (k : Fin 256) : F32.mul q (sintab k) (sintab k) = sintabSquare k :=
  F32.mul_of_isFinite (sintab_isFinite k) (sintab_isFinite k) q 0

/-- The sum of two squares of table entries, whatever the free value. -/
theorem add_sintabSquare (q : BitVec 23) (j k : Fin 256) :
    F32.add q (sintabSquare j) (sintabSquare k) = F32.add 0 (sintabSquare j) (sintabSquare k) :=
  F32.add_of_isFinite (sintabSquare_isFinite j) (sintabSquare_isFinite k) q 0

/-- The sine's index is the top eight bits of the angle, read as a quotient. -/
theorem sinIndex_eq (theta : Half) : sinIndex theta = Fin.ofNat 256 (theta.toNat / 256) := by
  apply Fin.ext
  simp [sinIndex, Nat.shiftRight_eq_div_pow]

/-- The cosine's index is 64 entries ahead, counted in the angle's quotient. -/
theorem cosIndex_eq (theta : Half) : cosIndex theta = Fin.ofNat 256 (theta.toNat / 256 + 64) := by
  rw [cosIndex, sinIndex_eq]
  exact Fin.ext (Nat.mod_add_mod _ 256 64)

/-- SINCOS changes no register but SIN and COS. -/
theorem uopFrame_uopSincos (s : State) : UopFrame [.sin, .cos] s (uopSincos s) := by
  refine ⟨fun r other => ?_, rfl, rfl, rfl, rfl⟩
  cases r
  case sin | cos => simp at other
  all_goals rfl

/-- Settles O21: SINCOS reads the table at the two indices, and the table's pairs lie near the unit circle. -/
theorem sincosReadsTable : Obligations.SincosReadsTable := by
  refine ⟨fun rest => rfl, fun s => ⟨uopSincos s, rfl, ?_, ?_, uopFrame_uopSincos s, fun q => ?_⟩⟩
  · rw [← sinIndex_eq]
    rfl
  · rw [← cosIndex_eq]
    rfl
  · have sin : (uopSincos s).foc.sin = sintab (sinIndex s.est.theta) := rfl
    have cos : (uopSincos s).foc.cos = sintab (sinIndex s.est.theta + 64) := rfl
    rw [sin, cos, mul_sintab_self, mul_sintab_self, add_sintabSquare]
    exact sintabSquares_near_one _

/-! ## CONVERT -/

/-- CONVERT changes no register but the four PHYS. -/
theorem uopFrame_uopConvert (s : State) :
    UopFrame [.phys 0, .phys 1, .phys 2, .phys 3] s (uopConvert s) := by
  refine ⟨fun r other => ?_, rfl, rfl, rfl, rfl⟩
  cases r
  case phys k => exact absurd (by fin_cases k <;> simp) other
  all_goals rfl

/-- Settles O16: each channel's physical value is R162's formula over the free values of the operation's sites. -/
theorem convertScalesSamples : Obligations.ConvertScalesSamples := by
  refine ⟨fun rest => rfl, fun s => ⟨uopConvert s, rfl, ⟨s.nan, fun ch => ?_⟩, uopFrame_uopConvert s⟩⟩
  exact Chan.get_ofFn (fun ch => physValue s ch) ch

/-! ## WARMUP -/

/-- Past the window WARMUP does nothing (40_signal_pipeline.md R163). -/
theorem uopWarmup_of_done {s : State} (done : 1000 ≤ s.pipe.warmupCnt.toNat) : uopWarmup s = s :=
  if_neg (Nat.not_lt.mpr done)

/-- Inside the window WARMUP adds the samples to the sums, counts, divides each new sum by the new count, and is done at
1000 (40_signal_pipeline.md R163). -/
theorem uopWarmup_of_counting {s : State} (counting : s.pipe.warmupCnt.toNat < 1000) :
    let n := s.pipe.warmupCnt.toNat + 1
    (∀ k : Fin 3, (uopWarmup s).pipe.wsum.get k = s.pipe.wsum.get k + (s.pipe.raw.get k.castSucc).setWidth 32) ∧
    (uopWarmup s).pipe.warmupCnt = BitVec.ofNat 16 n ∧
    (∀ k : Fin 3, (uopWarmup s).pipe.offset.get k.castSucc =
      F32.div (s.nan k) (F32.ofNat ((uopWarmup s).pipe.wsum.get k).toNat) (F32.ofNat n)) ∧
    (uopWarmup s).ctl.status = { s.ctl.status with warmupDone := s.ctl.status.warmupDone || n == 1000 } := by
  unfold uopWarmup
  rw [if_pos (show s.pipe.warmupCnt.toNat < Config.warmupN from counting)]
  exact ⟨fun k => by fin_cases k <;> rfl, rfl, fun k => by fin_cases k <;> rfl, rfl⟩

/-- WARMUP changes no register but the sums, the count, the current offsets and STATUS. -/
theorem uopFrame_uopWarmup {s : State} (counting : s.pipe.warmupCnt.toNat < 1000) :
    UopFrame [.wsum 0, .wsum 1, .wsum 2, .warmupCnt, .offset 0, .offset 1, .offset 2, .status] s (uopWarmup s) := by
  unfold uopWarmup
  rw [if_pos (show s.pipe.warmupCnt.toNat < Config.warmupN from counting)]
  refine ⟨fun r other => ?_, rfl, rfl, rfl, rfl⟩
  cases r
  case warmupCnt | status => simp at other
  case wsum k => exact absurd (by fin_cases k <;> simp) other
  case offset k =>
    obtain ⟨j, rfl⟩ | rfl := k.eq_castSucc_or_eq_last
    · exact absurd (by fin_cases j <;> simp) other
    · rfl
  all_goals rfl

/-- Settles O17: inside the window by what one WARMUP computes, at its end because WARMUP then does nothing. -/
theorem warmupAveragesOffsets : Obligations.WarmupAveragesOffsets := by
  refine ⟨fun rest => rfl, fun s counting => ⟨uopWarmup s, rfl, ?_⟩,
    fun s done => congrArg Host.Outcome.next (uopWarmup_of_done done)⟩
  obtain ⟨sums, count, offsets, status⟩ := uopWarmup_of_counting counting
  have countNat : (uopWarmup s).pipe.warmupCnt.toNat = s.pipe.warmupCnt.toNat + 1 := by
    rw [count, BitVec.toNat_ofNat]
    omega
  rw [countNat]
  exact ⟨sums, rfl, ⟨fun k => s.nan k, offsets⟩, status, uopFrame_uopWarmup counting⟩

end Sys2Proof.Machine
end

section
/-! PROOFS. Protection (41_protection.md): what PROTECT does with and without a violation, and that no other instruction
but RESET writes the OverLimit snapshot. -/

namespace Sys2Proof.Machine

/-! ## Frames -/

/-- A frame may list more registers than may change. -/
theorem UopFrame.mono {ws ws' : List Reg} {s t : State} (h : UopFrame ws s t) (sub : ws ⊆ ws') : UopFrame ws' s t := by
  obtain ⟨regs, rest⟩ := h
  exact ⟨fun r other => regs r fun m => other (sub m), rest⟩

/-- Taking a fault disables the phases and changes nothing else of the controller (60_exceptions.md R402). -/
theorem raiseFault_foc (code : FaultCode) (s : State) :
    (raiseFault code s).foc = { s.foc with phaseEn := Phase.all false } := by
  unfold raiseFault latchFault
  split <;> rfl

/-- Taking a fault takes no snapshot by itself (41_protection.md R202). -/
theorem raiseFault_fraw (code : FaultCode) (s : State) : (raiseFault code s).ctl.fraw = s.ctl.fraw := by
  unfold raiseFault latchFault
  split <;> rfl

/-- Taking a fault changes no register but FAULT, STATUS and PHASE_EN (60_exceptions.md R402, R404). -/
theorem uopFrame_raiseFault (code : FaultCode) (s : State) :
    UopFrame [.fault, .status, .phaseEn] s (raiseFault code s) := by
  obtain ⟨-, -, -, -, cyc, -, -⟩ := raiseFault_frame code s
  refine ⟨fun r other => ?_, cyc, raiseFault_records code s⟩
  unfold raiseFault latchFault
  cases r
  case fault | status | phaseEn => simp at other
  all_goals split <;> rfl

/-- A change of the violation counter changes no register but FAULT (10_state.md R38). -/
theorem uopFrame_violCnt (c : Byte) (s : State) :
    UopFrame [.fault] s (s.onCtl fun x => { x with violCnt := c }) := by
  refine ⟨fun r other => ?_, rfl, rfl, rfl, rfl⟩
  cases r
  case fault => simp at other
  all_goals rfl

/-- Scaling the references changes no other register. -/
theorem uopFrame_scaleReferences (s : State) : UopFrame [.idReq, .iqReq] s (scaleReferences s) := by
  refine ⟨fun r other => ?_, rfl, rfl, rfl, rfl⟩
  cases r
  case idReq | iqReq => simp at other
  all_goals rfl

/-- The snapshot changes no register but FRAW. -/
theorem uopFrame_snapshotRaw (s : State) : UopFrame [.fraw 0, .fraw 1, .fraw 2, .fraw 3] s (snapshotRaw s) := by
  refine ⟨fun r other => ?_, rfl, rfl, rfl, rfl⟩
  cases r
  case fraw k => exact absurd (by fin_cases k <;> simp) other
  all_goals rfl

/-! ## PROTECT -/

/-- A violation is a raw sample of some channel strictly outside its limits (41_protection.md R201). -/
theorem violation_iff (s : State) :
    s.violation = true ↔ ∃ ch : Fin 4, (s.pipe.limHi.get ch).toNat < (s.pipe.raw.get ch).toNat ∨
      (s.pipe.raw.get ch).toNat < (s.pipe.limLo.get ch).toNat := by
  simp [State.violation, outOfLimits, Fin.exists_fin_succ, or_assoc]

/-- What every violating cycle does: the references are scaled and the violation is counted (41_protection.md R201). -/
def countViolation (s : State) : State :=
  (scaleReferences s).onCtl fun x => { x with violCnt := satInc s.ctl.violCnt }

/-- The violation that a cycle counts trips: the third one or a later one, with no fault latched (41_protection.md R201). -/
def Trips (s : State) : Prop := 3 ≤ (satInc s.ctl.violCnt).toNat ∧ s.ctl.status.faultLatched = false

/-- PROTECT without a violation (41_protection.md R201). -/
theorem uopProtect_of_not_violation {s : State} (quiet : ¬ s.violation = true) :
    uopProtect s = .done (s.onCtl fun x => { x with violCnt := 0 }) :=
  if_neg quiet

/-- PROTECT with a violation that does not trip (41_protection.md R201). -/
theorem uopProtect_of_not_trips {s : State} (viol : s.violation = true) (held : ¬ Trips s) :
    uopProtect s = .done (countViolation s) :=
  (if_pos viol).trans (if_neg held)

/-- PROTECT with a violation that trips (41_protection.md R201, R202). -/
theorem uopProtect_of_trips {s : State} (viol : s.violation = true) (trips : Trips s) :
    uopProtect s = .raised (raiseFault .overLimit (snapshotRaw (countViolation s))) :=
  (if_pos viol).trans (if_pos trips)

/-- Counting a violation changes no register but the references and FAULT. -/
theorem uopFrame_countViolation (s : State) : UopFrame [.idReq, .iqReq, .fault] s (countViolation s) :=
  (uopFrame_scaleReferences s).trans (uopFrame_violCnt _ _)

/-- A count stops at 255 (41_protection.md R201). -/
theorem countViolation_violCnt (s : State) :
    (countViolation s).ctl.violCnt.toNat = min (s.ctl.violCnt.toNat + 1) 255 :=
  satInc_toNat s.ctl.violCnt

/-- A lone PROTECT leaves what the micro-operation leaves, trip or not. -/
theorem exec_protect_of_eq {s : State} {out : UopOut} (h : uopProtect s = out) : exec .protect s = .next out.state :=
  congrArg (Host.Outcome.next ∘ UopOut.state) h

/-- Settles O23: by the three things PROTECT can do, and the frames of the operations each is made of. -/
theorem protectCountsAndTrips : Obligations.ProtectCountsAndTrips := by
  refine ⟨fun rest => rfl, fun s => ⟨fun quiet => ?_, fun viol => ?_⟩⟩
  · have out := uopProtect_of_not_violation fun h => quiet ((violation_iff s).mp h)
    exact ⟨_, exec_protect_of_eq out, rfl, rfl, uopFrame_violCnt 0 s⟩
  · have viol := (violation_iff s).mpr viol
    by_cases trips : Trips s
    · let counted := countViolation s
      obtain ⟨-, -, -, -, -, count, -⟩ := raiseFault_frame .overLimit (snapshotRaw counted)
      obtain ⟨status, code, off⟩ := raiseFault_enters .overLimit (snapshotRaw counted)
      refine ⟨_, exec_protect_of_eq (uopProtect_of_trips viol trips), ⟨s.nan, ?_⟩, ?_, ?_⟩
      · rw [UopOut.state, raiseFault_foc]
        exact ⟨rfl, rfl⟩
      · rw [UopOut.state, count]
        exact countViolation_violCnt s
      · rw [UopOut.state, count]
        refine (if_pos trips).mpr ⟨raiseFault_fraw .overLimit _, ⟨status, code, off⟩, ?_⟩
        have frame := ((uopFrame_countViolation s).trans (uopFrame_snapshotRaw counted)).trans
          (uopFrame_raiseFault .overLimit _)
        exact frame.mono (by simp)
    · refine ⟨_, exec_protect_of_eq (uopProtect_of_not_trips viol trips), ⟨s.nan, rfl, rfl⟩, countViolation_violCnt s, ?_⟩
      exact (if_neg trips).mpr ⟨rfl, uopFrame_countViolation s⟩

/-! ## The snapshot

FRAW is written by a tripping PROTECT only. Along a cycle the latch matters too: as long as no fault is raised it stays as
it was before the cycle, so the trip latches a fault that was not latched before. -/

/-- Neither FRAW nor the fault latch changed. -/
def SnapshotFixed (s t : State) : Prop :=
  t.ctl.fraw = s.ctl.fraw ∧ t.ctl.status.faultLatched = s.ctl.status.faultLatched

/-- Between `s` and `t` OverLimit was latched, and FRAW holds the raw samples (41_protection.md R202). -/
def TakesSnapshot (s t : State) : Prop :=
  t.ctl.fraw = t.pipe.raw ∧ t.ctl.code = .overLimit ∧ faultBetween s t = true

theorem SnapshotFixed.refl (s : State) : SnapshotFixed s s := ⟨rfl, rfl⟩

theorem SnapshotFixed.trans {s t u : State} (h : SnapshotFixed s t) (g : SnapshotFixed t u) : SnapshotFixed s u :=
  ⟨g.1.trans h.1, g.2.trans h.2⟩

/-- Whether a snapshot is taken depends on the latch alone of the state before. -/
theorem TakesSnapshot.of_fixed {s t u : State} (h : SnapshotFixed s t) (g : TakesSnapshot t u) : TakesSnapshot s u := by
  obtain ⟨-, latched⟩ := h
  simpa only [TakesSnapshot, faultBetween, latched] using g

/-- A trip takes the snapshot (41_protection.md R202). -/
theorem takesSnapshot_of_trips {s : State} (trips : Trips s) :
    TakesSnapshot s (raiseFault .overLimit (snapshotRaw (countViolation s))) := by
  obtain ⟨-, unlatched⟩ := trips
  obtain ⟨pipe, -⟩ := raiseFault_frame .overLimit (snapshotRaw (countViolation s))
  obtain ⟨status, code, -⟩ := raiseFault_enters .overLimit (snapshotRaw (countViolation s))
  refine ⟨?_, ?_, ?_⟩
  · rw [raiseFault_fraw, pipe]
    rfl
  · exact code.trans (if_neg (ne_true_of_eq_false unlatched))
  · simp [faultBetween, status, unlatched]

/-! Every other micro-operation that ends without a fault changes neither FRAW nor the latch. -/

theorem uopWarmup_snapshot (s : State) : SnapshotFixed s (uopWarmup s) := by
  unfold uopWarmup
  split <;> exact ⟨rfl, rfl⟩

theorem uopClarksel_snapshot (s : State) : SnapshotFixed s (uopClarksel s) := by
  unfold uopClarksel
  cases clarkChoice s.foc.ccr s.ctl.clarkSat <;> exact ⟨rfl, rfl⟩

theorem uopTrack_snapshot (s : State) : SnapshotFixed s (uopTrack s) := by
  unfold uopTrack trackTimeout
  cases s.eventIn <;> dsimp only <;> split <;> exact ⟨rfl, rfl⟩

theorem uopPi_snapshot (s : State) : SnapshotFixed s (uopPi s) := by
  unfold uopPi
  dsimp only
  split <;> exact ⟨rfl, rfl⟩

theorem uopFsm_snapshot (s : State) : SnapshotFixed s (uopFsm s) := by
  obtain out | ⟨out, -⟩ | ⟨out, -⟩ := uopFsm_cases s <;> rw [out] <;> exact ⟨rfl, rfl⟩

theorem uopMeasRl_snapshot (s : State) : SnapshotFixed s (uopMeasRl s) := by
  unfold uopMeasRl measRipple
  dsimp only
  split_ifs <;> exact ⟨rfl, rfl⟩

theorem uopHlAlign_snapshot (s : State) : SnapshotFixed s (uopHlAlign s) := by
  unfold uopHlAlign
  dsimp only
  split <;> exact ⟨rfl, rfl⟩

theorem accumulate_snapshot (h : BitVec 3) (a : Half) (s : State) : SnapshotFixed s (accumulate h a s) := by
  unfold accumulate
  split <;> exact ⟨rfl, rfl⟩

theorem uopHlFwd_snapshot (s : State) : SnapshotFixed s (uopHlFwd s) := by
  refine (accumulate_snapshot s.ctl.hallRaw s.est.theta s).trans ?_
  unfold uopHlFwd
  dsimp only
  split <;> exact ⟨rfl, rfl⟩

theorem uopHlFinish_snapshot (s : State) : SnapshotFixed s (uopHlFinish s) := by
  unfold uopHlFinish relearnCenter
  dsimp only
  split <;> exact ⟨rfl, rfl⟩

theorem uopHlRev_snapshot (s : State) : SnapshotFixed s (uopHlRev s) := by
  refine (accumulate_snapshot s.ctl.hallRaw s.est.theta s).trans ?_
  unfold uopHlRev
  dsimp only
  split
  · exact uopHlFinish_snapshot _
  · exact ⟨rfl, rfl⟩

/-! The three that can raise a fault. -/

/-- What a micro-operation may do to the snapshot: nothing and leave the latch too, or raise a fault, and then take the
snapshot only if it is PROTECT (41_protection.md R202). -/
def SnapshotRule (u : Uop) (s : State) : UopOut → Prop
  | .done t => SnapshotFixed s t
  | .raised t => t.ctl.fraw = s.ctl.fraw ∨ u = .protect ∧ TakesSnapshot s t

theorem uopProtect_snapshot (s : State) : SnapshotRule .protect s (uopProtect s) := by
  by_cases viol : s.violation = true
  · by_cases trips : Trips s
    · rw [uopProtect_of_trips viol trips]
      exact Or.inr ⟨rfl, takesSnapshot_of_trips trips⟩
    · rw [uopProtect_of_not_trips viol trips]
      exact ⟨rfl, rfl⟩
  · rw [uopProtect_of_not_violation viol]
    exact ⟨rfl, rfl⟩

theorem uopHall_snapshot (s : State) : SnapshotRule .hall s (uopHall s) := by
  unfold uopHall
  dsimp only
  split
  · exact Or.inl (raiseFault_fraw _ s)
  · split <;> exact ⟨rfl, rfl⟩

theorem uopDetect_snapshot (s : State) : SnapshotRule .detect s (uopDetect s) := by
  obtain ⟨out, -⟩ | ⟨out, -⟩ | ⟨out, -⟩ | ⟨out, -⟩ := uopDetect_cases s <;> rw [out]
  · exact Or.inl (raiseFault_fraw _ s)
  all_goals exact ⟨rfl, rfl⟩

/-- Every micro-operation keeps the snapshot but a tripping PROTECT. -/
theorem runUop_snapshot (u : Uop) (s : State) : SnapshotRule u s (runUop u s) := by
  cases u
  case warmup => exact uopWarmup_snapshot s
  case protect => exact uopProtect_snapshot s
  case hall => exact uopHall_snapshot s
  case track => exact uopTrack_snapshot s
  case pi => exact uopPi_snapshot s
  case fsm => exact uopFsm_snapshot s
  case measRl => exact uopMeasRl_snapshot s
  case hlAlign => exact uopHlAlign_snapshot s
  case hlFwd => exact uopHlFwd_snapshot s
  case hlRev => exact uopHlRev_snapshot s
  case hlFinish => exact uopHlFinish_snapshot s
  case detect => exact uopDetect_snapshot s
  case clarksel => exact uopClarksel_snapshot s
  all_goals exact ⟨rfl, rfl⟩

/-! ## Cycles -/

/-- The rule for a cycle, from the rule for its sequences: if every micro-operation takes a `P` state to a `P` state, or
raises in an `R` state, then so does the cycle. -/
theorem fastCycle_rule {P R : State → Prop} {s t : State}
    (done : ∀ u x y, P x → runUop u x = .done y → P y) (raised : ∀ u x y, P x → runUop u x = .raised y → R y)
    (start : P s) (cycle : fastCycle s = some t) : P t ∨ R t := by
  have sequence (us : List Uop) (x : State) := runSeq_rule (P := P) (R := R) us x (fun u x y _ => done u x y)
    (fun u x y _ => raised u x y)
  unfold fastCycle at cycle
  split at cycle
  · cases cycle
  · obtain ⟨m, common, hm⟩ | ⟨m, common, hm⟩ := sequence (commonSeq s) s start <;> rw [common] at cycle
    · dsimp only at cycle
      rw [stateAction_default] at cycle
      cases selected : m.seq with
      | none => simp [selected] at cycle
      | some us =>
        rw [selected] at cycle
        obtain rfl := Option.some.inj cycle
        obtain ⟨y, out, hy⟩ | ⟨y, out, hy⟩ := sequence us m hm <;> simp only [out]
        · exact .inl hy
        · exact .inr hy
    · exact .inr (Option.some.inj cycle ▸ hm)

/-- A cycle keeps FRAW or takes the snapshot of its raw samples (41_protection.md R202). -/
theorem fastCycle_snapshot {s t : State} (cycle : fastCycle s = some t) :
    t.ctl.fraw = s.ctl.fraw ∨ TakesSnapshot s t := by
  have done (u : Uop) (x y : State) (before : SnapshotFixed s x) (out : runUop u x = .done y) : SnapshotFixed s y := by
    have rule := runUop_snapshot u x
    rw [out] at rule
    exact before.trans rule
  have raised (u : Uop) (x y : State) (before : SnapshotFixed s x) (out : runUop u x = .raised y) :
      y.ctl.fraw = s.ctl.fraw ∨ TakesSnapshot s y := by
    have rule := runUop_snapshot u x
    rw [out] at rule
    exact rule.imp (·.trans before.1) fun ⟨_, taken⟩ => taken.of_fixed before
  exact (fastCycle_rule done raised (.refl s) cycle).elim (fun fixed => .inl fixed.1) id

/-! ## Instructions -/

/-- Every instruction is one of the host's or a micro-operation (30_encoding.md R130, R143). -/
theorem isTransaction_or_uopInstr : ∀ i : Instr, isTransaction i = true ∨ ∃ u, i = uopInstr u
  | .rd _ | .wr _ _ | .tick _ _ _ _ _ _ _ | .reset | .faultReset _ _ | .clearDirty _ => .inl rfl
  | .sample => .inr ⟨.sample, rfl⟩
  | .convert => .inr ⟨.convert, rfl⟩
  | .warmup => .inr ⟨.warmup, rfl⟩
  | .clark3 => .inr ⟨.clark3, rfl⟩
  | .clark2Xa => .inr ⟨.clark2Xa, rfl⟩
  | .clark2Xb => .inr ⟨.clark2Xb, rfl⟩
  | .clark2Xc => .inr ⟨.clark2Xc, rfl⟩
  | .park => .inr ⟨.park, rfl⟩
  | .protect => .inr ⟨.protect, rfl⟩
  | .hall => .inr ⟨.hall, rfl⟩
  | .flux => .inr ⟨.flux, rfl⟩
  | .track => .inr ⟨.track, rfl⟩
  | .sincos => .inr ⟨.sincos, rfl⟩
  | .pi => .inr ⟨.pi, rfl⟩
  | .invpark => .inr ⟨.invpark, rfl⟩
  | .invclark => .inr ⟨.invclark, rfl⟩
  | .svpwm => .inr ⟨.svpwm, rfl⟩
  | .pwmout => .inr ⟨.pwmout, rfl⟩
  | .fsm => .inr ⟨.fsm, rfl⟩
  | .measRl => .inr ⟨.measRl, rfl⟩
  | .gaincalc => .inr ⟨.gaincalc, rfl⟩
  | .hlAlign => .inr ⟨.hlAlign, rfl⟩
  | .hlFwd => .inr ⟨.hlFwd, rfl⟩
  | .hlRev => .inr ⟨.hlRev, rfl⟩
  | .hlFinish => .inr ⟨.hlFinish, rfl⟩
  | .inject => .inr ⟨.inject, rfl⟩
  | .brk => .inr ⟨.brk, rfl⟩
  | .outoff => .inr ⟨.outoff, rfl⟩
  | .detect => .inr ⟨.detect, rfl⟩
  | .clarksel => .inr ⟨.clarksel, rfl⟩

/-- A transaction that completes came after the first RESET and did what its meaning says (70_reset_and_hazards.md
R451). -/
theorem afterReset_next {s t : State} {k : State → Host.Outcome State Fault Refusal} (h : afterReset s k = .next t) :
    s.resetSeen = true ∧ k s = .next t := by
  cases seen : s.resetSeen with
  | false =>
    rw [afterReset_of_unseen seen] at h
    cases h
  | true => exact ⟨rfl, afterReset_of_seen seen k ▸ h⟩

/-- A TICK that completes ran a fast cycle with its ports presented (46_host_interface.md R372). -/
theorem exec_tick_next {s t : State} {hwbrk : BitVec 1} {probe : BitVec 4} {hall : BitVec 3} {ia ib ic vbus : Half}
    (h : exec (.tick hwbrk probe hall ia ib ic vbus) s = .next t) :
    ∃ u, fastCycle (presentPorts ⟨⟨ia, ib, ic, vbus⟩, hall, probe, hwbrk⟩ s) = some u ∧ t = endTick u := by
  unfold exec execTick at h
  obtain ⟨-, ran⟩ := afterReset_next h
  unfold tickWith at ran
  split at ran
  next u cycle =>
    cases ran
    exact ⟨u, cycle, rfl⟩
  next => cases ran

/-- The return from Error keeps the snapshot (41_protection.md R202). -/
theorem leaveError_fraw (s : State) : (leaveError s).ctl.fraw = s.ctl.fraw := by
  unfold leaveError
  split <;> rfl

/-- The commands of a WR to CMD keep the snapshot. -/
theorem runCommands_fraw (v : Word) (s : State) : (runCommands v s).ctl.fraw = s.ctl.fraw := by
  rw [runCommands_cases]
  split
  case h_1 | h_2 => rfl
  all_goals exact leaveError_fraw s

/-- A host read keeps the snapshot. -/
theorem hostRead_fraw (a : BitVec 12) (s : State) : (hostRead a s).ctl.fraw = s.ctl.fraw := by
  obtain ⟨r, -, out⟩ | ⟨-, out⟩ := hostRead_cases a s <;> rw [out] <;> rfl

/-- No host write reaches FRAW (20_memory.md R106). -/
theorem hostWrite_fraw (a : BitVec 12) (v : Word) (s : State) : (hostWrite a v s).ctl.fraw = s.ctl.fraw := by
  obtain ⟨r, -, -, out⟩ | ⟨r, -, -, out⟩ | ⟨r, -, -, out⟩ | ⟨-, out⟩ := hostWrite_cases a v s <;>
    rw [out, State.respond_ctl]
  · rw [Reg.write_ctl]
  · exact runCommands_fraw v s

/-- A host transaction that completes keeps the snapshot, or is a RESET, or a TICK that takes it. -/
theorem exec_transaction_snapshot {i : Instr} {s t : State} (host : isTransaction i = true) (ends : exec i s = .next t) :
    t.ctl.fraw = s.ctl.fraw ∨ i = .reset ∨
      (∃ hwbrk probe hall ia ib ic vbus, i = .tick hwbrk probe hall ia ib ic vbus) ∧ TakesSnapshot s t := by
  cases i
  case rd a =>
    unfold exec execRd at ends
    obtain ⟨-, ran⟩ := afterReset_next ends
    cases ran
    exact .inl (hostRead_fraw a s)
  case wr a v =>
    unfold exec execWr at ends
    obtain ⟨-, ran⟩ := afterReset_next ends
    cases ran
    exact .inl (hostWrite_fraw a v s)
  case tick =>
    obtain ⟨u, cycle, rfl⟩ := exec_tick_next ends
    exact (fastCycle_snapshot cycle).imp id fun taken => .inr ⟨⟨_, _, _, _, _, _, _, rfl⟩, taken⟩
  case reset => exact .inr (.inl rfl)
  case faultReset clr ign =>
    unfold exec execFaultReset at ends
    obtain ⟨-, ran⟩ := afterReset_next ends
    cases ran
    refine .inl ?_
    split <;> exact leaveError_fraw s
  case clearDirty =>
    unfold exec execClearDirty at ends
    obtain ⟨-, ran⟩ := afterReset_next ends
    cases ran
    exact .inl rfl
  all_goals cases host

/-- A lone micro-operation keeps the snapshot, or is a PROTECT that takes it. -/
theorem runUop_state_snapshot (u : Uop) (s : State) :
    (runUop u s).state.ctl.fraw = s.ctl.fraw ∨ u = .protect ∧ TakesSnapshot s (runUop u s).state := by
  have rule := runUop_snapshot u s
  cases out : runUop u s with
  | done t =>
    rw [out] at rule
    exact .inl rule.1
  | raised t =>
    rw [out] at rule
    exact rule

/-- Settles O55: a host transaction changes FRAW only in a TICK's cycle, a micro-operation only as a tripping PROTECT. -/
theorem snapshotOnlyOnOverLimit : Obligations.SnapshotOnlyOnOverLimit := by
  intro i s t ends notReset changed
  obtain host | ⟨u, rfl⟩ := isTransaction_or_uopInstr i
  · obtain kept | reset | ⟨tick, fraw, code, latched⟩ := exec_transaction_snapshot host ends
    · exact absurd kept changed
    · exact absurd reset notReset
    · exact ⟨fraw, code, latched, .inl tick⟩
  · rw [exec_uopInstr] at ends
    cases ends
    obtain kept | ⟨rfl, fraw, code, latched⟩ := runUop_state_snapshot u s
    · exact absurd kept changed
    · exact ⟨fraw, code, latched, .inr rfl⟩

end Sys2Proof.Machine
end

section
/-! PROOFS. The position and flux estimator (42_estimator.md): the three outcomes of HALL and what each leaves alone. -/

namespace Sys2Proof.Machine

/-! ## The sector of a Hall state -/

/-- The Hall states 1 to 6 name the sectors of the same number (42_estimator.md R220). -/
theorem hallSector_eq_some_iff : ∀ (h : BitVec 3) (k : Fin 6), hallSector h = some k ↔ h.toNat = k.val + 1 := by
  decide

/-- Only the Hall states 0 and 7 name no sector (42_estimator.md R220). -/
theorem hallSector_eq_none_iff : ∀ h : BitVec 3, hallSector h = none ↔ h = 0 ∨ h = 7 := by
  decide

/-! ## HALL -/

/-- The state after a change to a Hall state of sector `k + 1`: the event is made, and the state and the sector's centre
are stored (42_estimator.md R220). -/
def hallEdge (k : Fin 6) (s : State) : State :=
  let c := (s.mot.ht.get k).center
  let e : Evt := { ang := c, fwd := fwd (c - s.est.lastHallCenter), src := .hall }
  ((s.onCyc fun x => { x with hallEvt := some e }).onCtl fun x => { x with lastHall := s.ctl.hallRaw }).onEst fun x =>
    { x with lastHallCenter := c }

/-- HALL on a state that names no sector (42_estimator.md R220). -/
theorem uopHall_of_none {s : State} (invalid : hallSector s.ctl.hallRaw = none) :
    uopHall s = .raised (raiseFault (invalidHallCode s.ctl.hallRaw) s) := by
  simp only [uopHall, invalid]

/-- HALL on a valid state that has not changed (42_estimator.md R220). -/
theorem uopHall_of_unchanged {s : State} {k : Fin 6} (sector : hallSector s.ctl.hallRaw = some k)
    (same : s.ctl.hallRaw = s.ctl.lastHall) : uopHall s = .done s := by
  simp only [uopHall, sector]
  exact if_neg (not_not.mpr same)

/-- HALL on a valid state that has changed (42_estimator.md R220). -/
theorem uopHall_of_changed {s : State} {k : Fin 6} (sector : hallSector s.ctl.hallRaw = some k)
    (changed : s.ctl.hallRaw ≠ s.ctl.lastHall) : uopHall s = .done (hallEdge k s) := by
  simp only [uopHall, sector]
  exact if_pos changed

/-- A lone HALL leaves what the micro-operation leaves, fault or not. -/
theorem exec_hall_of_eq {s : State} {out : UopOut} (h : uopHall s = out) : exec .hall s = .next out.state :=
  congrArg (Host.Outcome.next ∘ UopOut.state) h

/-- A lone HALL on a state that names no sector enters Error and counts no violation (42_estimator.md R220,
60_exceptions.md R402). -/
theorem exec_hall_of_none {s : State} (invalid : hallSector s.ctl.hallRaw = none) :
    ∃ t, exec .hall s = .next t ∧ EntersError (invalidHallCode s.ctl.hallRaw) s t ∧
      t.ctl.violCnt = s.ctl.violCnt ∧ UopFrame [.fault, .status, .phaseEn] s t := by
  obtain ⟨-, -, -, -, -, count, -⟩ := raiseFault_frame (invalidHallCode s.ctl.hallRaw) s
  exact ⟨_, exec_hall_of_eq (uopHall_of_none invalid), raiseFault_enters _ s, count, uopFrame_raiseFault _ s⟩

/-- An edge changes no register but HALLIO, which shows LAST_HALL, and LAST_HALL_CENTER. -/
theorem regsFixedBut_hallEdge (k : Fin 6) (s : State) :
    RegsFixedBut [.hallio, .lastHallCenter] s (hallEdge k s) := by
  intro r other
  cases r
  case hallio | lastHallCenter => simp at other
  all_goals rfl

/-- Settles O24: by the three things HALL can do, told apart by the sector that HALL_RAW names and by LAST_HALL. -/
theorem hallDetectsEdges : Obligations.HallDetectsEdges := by
  refine ⟨fun rest => rfl, fun s zero => ?_, fun s seven => ?_, fun s not0 not7 same => ?_, fun s k number changed => ?_⟩
  · have invalid := (hallSector_eq_none_iff s.ctl.hallRaw).mpr (.inl zero)
    have code : invalidHallCode s.ctl.hallRaw = .invalidHallState0 := congrArg invalidHallCode zero
    exact code ▸ exec_hall_of_none invalid
  · have invalid := (hallSector_eq_none_iff s.ctl.hallRaw).mpr (.inr seven)
    have code : invalidHallCode s.ctl.hallRaw = .invalidHallState7 := congrArg invalidHallCode seven
    exact code ▸ exec_hall_of_none invalid
  · have valid : hallSector s.ctl.hallRaw ≠ none := fun invalid =>
      ((hallSector_eq_none_iff _).mp invalid).elim not0 not7
    obtain ⟨k, sector⟩ := Option.ne_none_iff_exists'.mp valid
    exact exec_hall_of_eq (uopHall_of_unchanged sector same)
  · have sector := (hallSector_eq_some_iff s.ctl.hallRaw k).mpr number
    exact ⟨hallEdge k s, exec_hall_of_eq (uopHall_of_changed sector changed), rfl, rfl, rfl, rfl, rfl,
      regsFixedBut_hallEdge k s, rfl, rfl, rfl⟩

end Sys2Proof.Machine
end

section
/-! PROOFS. The controller (43_controller.md): what BREAK and OUTOFF change, and that a second BREAK changes nothing. -/

namespace Sys2Proof.Machine

/-- Disabling the phases changes no register but PHASE_EN, so the compare values stay (43_controller.md R267). -/
theorem uopFrame_outputsOff (s : State) : UopFrame [.phaseEn] s (outputsOff s) := by
  refine ⟨fun r other => ?_, rfl, rfl, rfl, rfl⟩
  cases r
  case phaseEn => simp at other
  all_goals rfl

/-- The software break changes the phases and a STATUS field, and no other register (43_controller.md R266). -/
theorem uopFrame_softwareBreak (s : State) : UopFrame [.phaseEn, .status] s (softwareBreak s) :=
  (uopFrame_outputsOff s).trans (uopFrame_onStatus _ _)

/-- The software break of broken outputs changes nothing (43_controller.md R266). -/
theorem softwareBreak_idem (s : State) : softwareBreak (softwareBreak s) = softwareBreak s := rfl

/-- Settles O34: each micro-operation is its output operation, whose frame is known, and the break is idempotent. -/
theorem breakAndOutoff : Obligations.BreakAndOutoff := by
  refine ⟨fun rest => ⟨rfl, rfl⟩, fun s => ⟨?brk, ?outoff⟩⟩
  case brk =>
    have again : exec .brk (softwareBreak s) = .next (softwareBreak s) :=
      congrArg Host.Outcome.next (softwareBreak_idem s)
    exact ⟨softwareBreak s, rfl, rfl, rfl, rfl, rfl, uopFrame_softwareBreak s, again⟩
  case outoff => exact ⟨outputsOff s, rfl, rfl, rfl, uopFrame_outputsOff s⟩

end Sys2Proof.Machine
end

section
/-! PROOFS. The state machine (44_state_machine.md): the states that FSM and DETECT enter, on what conditions, and what
entering a state leaves alone. -/

namespace Sys2Proof.Machine

/-! ## Entering a state -/

/-- Going to a state changes no register but STATUS (10_state.md R36). -/
theorem uopFrame_goto (st : OpState) (s : State) : UopFrame [.status] s (s.goto st) :=
  uopFrame_onStatus _ s

/-- Entering HallRun on the host's parameters changes no register but STATUS (44_state_machine.md R304). -/
theorem uopFrame_enterHallRun (s : State) : UopFrame [.status] s (enterHallRun s) :=
  uopFrame_onStatus (fun t => { t with opstate := .hallRun, htValid := true }) s

/-- Entering identification changes no register but STATUS and those it clears (44_state_machine.md R302). -/
theorem uopFrame_enterIdentification (s : State) :
    UopFrame [.status, .measCnt, .measDuty, .measD12, .measI1, .measI2, .measIh, .measIl] s
      (enterIdentification s) := by
  refine ⟨fun r other => ?_, rfl, rfl, rfl, rfl⟩
  cases r
  case status | measCnt | measDuty | measD12 | measI1 | measI2 | measIh | measIl => simp at other
  all_goals rfl

/-- The three accumulators of a sector are among the Hall-learning accumulators (10_state.md R83). -/
theorem Reg.mem_hallAccumulators (k : Fin 6) :
    .hlCnt k ∈ hallAccumulators ∧ .hlSum k ∈ hallAccumulators ∧ .hlRef k ∈ hallAccumulators := by
  fin_cases k <;> simp [hallAccumulators]

/-- Entering Hall-table learning changes no register but STATUS, MEAS_CNT and the accumulators (44_state_machine.md
R305). -/
theorem uopFrame_enterHallLearning (s : State) :
    UopFrame (.status :: .measCnt :: Reg.hallAccumulators) s (enterHallLearning s) := by
  refine ⟨fun r other => ?_, rfl, rfl, rfl, rfl⟩
  obtain ⟨notStatus, notCount, notAccumulator⟩ := by simpa only [List.mem_cons, not_or] using other
  cases r
  case status => exact absurd rfl notStatus
  case measCnt => exact absurd rfl notCount
  case hlCnt k | hlSum k | hlRef k =>
    obtain ⟨cnt, sum, ref⟩ := Reg.mem_hallAccumulators k
    contradiction
  all_goals rfl

/-- Entering Hall-table learning clears every sector's accumulators (44_state_machine.md R305). -/
theorem enterHallLearning_hl (s : State) (k : Fin 6) : (enterHallLearning s).com.hl.get k = ⟨0, 0, 0⟩ := by
  simp [enterHallLearning]

/-! ## FSM -/

/-- Idle with the warm-up done and RUN set: the state from which FSM goes on (44_state_machine.md R302). -/
def ReadyToLeaveIdle (s : State) : Prop :=
  s.ctl.status.opstate = .idle ∧ s.ctl.status.warmupDone = true ∧ s.ctl.run = true

/-- With parameters FSM leaves Idle, once ready, and Measuring for HallRun (44_state_machine.md R302, R304). -/
theorem uopFsm_of_paramsValid {s : State} (source : ReadyToLeaveIdle s ∨ s.ctl.status.opstate = .measuring)
    (params : s.ctl.paramsValid = true) : uopFsm s = enterHallRun s := by
  unfold uopFsm
  obtain ⟨idle, warm, run⟩ | measuring := source
  · simp only [idle]
    exact (if_pos ⟨warm, run⟩).trans (if_pos params)
  · simp only [measuring]
    exact if_pos params

/-- Without parameters FSM leaves Idle, once ready, for identification (44_state_machine.md R302). -/
theorem uopFsm_of_ready {s : State} (ready : ReadyToLeaveIdle s) (noParams : s.ctl.paramsValid = false) :
    uopFsm s = enterIdentification s := by
  obtain ⟨idle, warm, run⟩ := ready
  unfold uopFsm
  simp only [idle]
  exact (if_pos ⟨warm, run⟩).trans (if_neg (ne_true_of_eq_false noParams))

/-- FSM does nothing in Idle until it is ready, in Measuring without parameters, and in every other state
(44_state_machine.md R302). -/
theorem uopFsm_of_stays {s : State} (notReady : ¬ ReadyToLeaveIdle s)
    (notMeasured : ¬ (s.ctl.status.opstate = .measuring ∧ s.ctl.paramsValid = true)) : uopFsm s = s := by
  unfold uopFsm
  split
  next idle => exact if_neg fun go => notReady ⟨idle, go⟩
  next measuring => exact if_neg fun params => notMeasured ⟨measuring, params⟩
  next => rfl

/-- A lone FSM leaves what the micro-operation leaves. -/
theorem exec_fsm_of_eq {s t : State} (h : uopFsm s = t) : exec .fsm s = .next t :=
  congrArg Host.Outcome.next h

/-- Settles O35: by the three things FSM can do, and what entering each state changes. -/
theorem fsmLeavesIdleAndMeasuring : Obligations.FsmLeavesIdleAndMeasuring := by
  refine ⟨fun rest => rfl, fun s leaves params => ?hallRun, fun s idle warm run noParams => ?identification,
    fun s notReady notMeasured => exec_fsm_of_eq (uopFsm_of_stays notReady notMeasured)⟩
  case hallRun =>
    exact ⟨_, exec_fsm_of_eq (uopFsm_of_paramsValid leaves params), rfl, uopFrame_enterHallRun s⟩
  case identification =>
    exact ⟨_, exec_fsm_of_eq (uopFsm_of_ready ⟨idle, warm, run⟩ noParams), rfl, rfl, rfl, rfl, rfl, rfl, rfl, rfl,
      rfl, uopFrame_enterIdentification s⟩

/-! ## DETECT -/

/-- A probe code of 8 and above is a fault (44_state_machine.md R305). -/
theorem uopDetect_of_fault {s : State} (probe : 8 ≤ s.ctl.probe.toNat) :
    uopDetect s = .raised (raiseFault .genericHallFault s) :=
  if_pos probe

/-- The probe codes 6 and 7 say that there are no Hall sensors (44_state_machine.md R305). -/
theorem uopDetect_of_noSensors {s : State} (probe : s.ctl.probe.toNat = 6 ∨ s.ctl.probe.toNat = 7) :
    uopDetect s = .done (s.goto .sensorlessRun) :=
  (if_neg (by omega)).trans (if_pos probe)

/-- The probe codes below 6 say that there are Hall sensors: with a valid Hall table DETECT goes to HallRun
(44_state_machine.md R305). -/
theorem uopDetect_of_knownTable {s : State} (probe : s.ctl.probe.toNat < 6) (known : s.ctl.status.htValid = true) :
    uopDetect s = .done (s.goto .hallRun) :=
  (if_neg (by omega)).trans ((if_neg (by omega)).trans (if_pos known))

/-- With Hall sensors and no valid Hall table DETECT goes on to learn the table (44_state_machine.md R305). -/
theorem uopDetect_of_unknownTable {s : State} (probe : s.ctl.probe.toNat < 6)
    (unknown : s.ctl.status.htValid = false) : uopDetect s = .done (enterHallLearning s) :=
  (if_neg (by omega)).trans ((if_neg (by omega)).trans (if_neg (ne_true_of_eq_false unknown)))

/-- A lone DETECT leaves what the micro-operation leaves, fault or not. -/
theorem exec_detect_of_eq {s : State} {out : UopOut} (h : uopDetect s = out) : exec .detect s = .next out.state :=
  congrArg (Host.Outcome.next ∘ UopOut.state) h

/-- Settles O36: by the outcomes of the probe code, and what entering each state changes. -/
theorem detectReadsProbe : Obligations.DetectReadsProbe := by
  refine ⟨fun rest => rfl, fun s probe => ?fault, fun s probe => ?noSensors, fun s probe known => ?known,
    fun s probe unknown => ?unknown⟩
  case fault =>
    obtain ⟨-, -, -, -, -, count, -⟩ := raiseFault_frame .genericHallFault s
    exact ⟨_, exec_detect_of_eq (uopDetect_of_fault probe), raiseFault_enters _ s, count, uopFrame_raiseFault _ s⟩
  case noSensors =>
    have code := probe.imp (congrArg BitVec.toNat) (congrArg BitVec.toNat)
    exact ⟨_, exec_detect_of_eq (uopDetect_of_noSensors code), rfl, uopFrame_goto _ s⟩
  case known => exact ⟨_, exec_detect_of_eq (uopDetect_of_knownTable probe known), rfl, uopFrame_goto _ s⟩
  case unknown =>
    exact ⟨_, exec_detect_of_eq (uopDetect_of_unknownTable probe unknown), rfl, rfl, enterHallLearning_hl s,
      uopFrame_enterHallLearning s⟩

end Sys2Proof.Machine
end

section
/-! PROOFS. Hall-table learning (45_commissioning.md): what HL_ALIGN, the two sweeps, HL_FINISH and INJECT compute and
what they leave alone. -/

namespace Sys2Proof.Machine

/-! ## Frames -/

/-- A change of the angle changes no register but THETA (10_state.md R66). -/
theorem uopFrame_theta (a : Half) (s : State) : UopFrame [.theta] s (s.onEst fun x => { x with theta := a }) := by
  refine ⟨fun r other => ?_, rfl, rfl, rfl, rfl⟩
  cases r
  case theta => simp at other
  all_goals rfl

/-- A change of the last Hall centre changes no register but LAST_HALL_CENTER (10_state.md R72). -/
theorem uopFrame_lastHallCenter (c : Half) (s : State) :
    UopFrame [.lastHallCenter] s (s.onEst fun x => { x with lastHallCenter := c }) := by
  refine ⟨fun r other => ?_, rfl, rfl, rfl, rfl⟩
  cases r
  case lastHallCenter => simp at other
  all_goals rfl

/-- A change of the cycle count changes no register but MEAS_CNT (10_state.md R77). -/
theorem uopFrame_measCnt (n : Word) (s : State) : UopFrame [.measCnt] s (s.onCom fun x => { x with measCnt := n }) := by
  refine ⟨fun r other => ?_, rfl, rfl, rfl, rfl⟩
  cases r
  case measCnt => simp at other
  all_goals rfl

/-- A change of one sector's accumulators changes no register but the three that show them (10_state.md R83). -/
theorem uopFrame_hl_set (k : Fin 6) (acc : HlAcc) (s : State) :
    UopFrame [.hlCnt k, .hlSum k, .hlRef k] s (s.onCom fun x => { x with hl := x.hl.set k acc }) := by
  refine ⟨fun r other => ?_, rfl, rfl, rfl, rfl⟩
  cases r
  case hlCnt j | hlSum j | hlRef j =>
    have elsewhere : j ≠ k := by simpa using other
    simp [Reg.read, elsewhere]
  all_goals rfl

/-- The two registers of a sector's entry are among those of the Hall table (10_state.md R76). -/
theorem Reg.mem_hallTable (k : Fin 6) : .htSe k ∈ hallTable ∧ .htCw k ∈ hallTable := by
  fin_cases k <;> simp [hallTable]

/-- A new Hall table changes no register but those of the table (10_state.md R76). -/
theorem uopFrame_ht (ht : Sector HallEntry) (s : State) :
    UopFrame Reg.hallTable s (s.onMot fun m => { m with ht := ht }) := by
  refine ⟨fun r other => ?_, rfl, rfl, rfl, rfl⟩
  cases r
  case htSe k | htCw k =>
    obtain ⟨se, cw⟩ := Reg.mem_hallTable k
    contradiction
  all_goals rfl

/-! ## INJECT -/

/-- INJECT changes no register but VD and VQ, so the integrators stay (45_commissioning.md R345). -/
theorem uopFrame_uopInject (s : State) : UopFrame [.vd, .vq] s (uopInject s) := by
  refine ⟨fun r other => ?_, rfl, rfl, rfl, rfl⟩
  cases r
  case vd | vq => simp at other
  all_goals rfl

/-- Settles O46: INJECT writes the two voltages and nothing else. -/
theorem injectSetsVoltage : Obligations.InjectSetsVoltage :=
  ⟨fun _ => rfl, fun s => ⟨uopInject s, rfl, rfl, rfl, uopFrame_uopInject s⟩⟩

/-! ## HL_ALIGN -/

/-- The last alignment cycle goes on to the forward sweep (45_commissioning.md R340). -/
theorem uopHlAlign_of_last {s : State} (last : s.com.alignT.toNat ≤ s.com.measCnt.toNat + 1) :
    uopHlAlign s = ((s.onEst fun x => { x with theta := 0 }).onStatus fun x => { x with subphase := .hlFwd }).onCom
      fun x => { x with measCnt := 0 } :=
  if_pos last

/-- Every earlier alignment cycle is counted (45_commissioning.md R340). -/
theorem uopHlAlign_of_waiting {s : State} (waiting : ¬ s.com.alignT.toNat ≤ s.com.measCnt.toNat + 1) :
    uopHlAlign s = (s.onEst fun x => { x with theta := 0 }).onCom fun x => { x with measCnt := s.com.measCnt + 1 } :=
  if_neg waiting

/-- A lone HL_ALIGN leaves what the micro-operation leaves. -/
theorem exec_hlAlign_of_eq {s t : State} (h : uopHlAlign s = t) : exec .hlAlign s = .next t :=
  congrArg Host.Outcome.next h

/-- Settles O41: by the two things HL_ALIGN can do; a count that waits is below ALIGN_T and so does not wrap. -/
theorem hlAlignHoldsAngle : Obligations.HlAlignHoldsAngle := by
  refine ⟨fun rest => rfl, fun s => ?_⟩
  by_cases last : s.com.alignT.toNat ≤ s.com.measCnt.toNat + 1
  · refine ⟨_, exec_hlAlign_of_eq (uopHlAlign_of_last last), rfl, (if_pos last).mpr ⟨rfl, rfl, ?_⟩⟩
    exact ((uopFrame_theta 0 s).trans (uopFrame_onStatus _ _)).trans (uopFrame_measCnt 0 _)
  · have noWrap : (s.com.measCnt + 1).toNat = s.com.measCnt.toNat + 1 :=
      BitVec.toNat_add_of_lt (by have := s.com.alignT.isLt; simp; omega)
    exact ⟨_, exec_hlAlign_of_eq (uopHlAlign_of_waiting last), rfl,
      (if_neg last).mpr ⟨noWrap, (uopFrame_theta 0 s).trans (uopFrame_measCnt _ _)⟩⟩

/-! ## The accumulation of the sweeps -/

/-- On a Hall state that names sector `k + 1`, that sector's accumulators see the angle (45_commissioning.md R341). -/
theorem accumulate_of_sector {h : BitVec 3} {k : Fin 6} (sector : hallSector h = some k) (a : Half) (s : State) :
    accumulate h a s = s.onCom fun x => { x with hl := x.hl.set k (accumulated (x.hl.get k) a) } := by
  simp only [accumulate, sector]

/-- Accumulating changes no register but the sector's three accumulators (45_commissioning.md R341). -/
theorem uopFrame_accumulate {h : BitVec 3} {k : Fin 6} (sector : hallSector h = some k) (a : Half) (s : State) :
    UopFrame [.hlCnt k, .hlSum k, .hlRef k] s (accumulate h a s) := by
  rw [accumulate_of_sector sector]
  exact uopFrame_hl_set k _ s

/-- What accumulating does to the accumulators (45_commissioning.md R341). -/
theorem accumulate_hl {h : BitVec 3} {k : Fin 6} (sector : hallSector h = some k) (a : Half) (s : State) :
    (accumulate h a s).com.hl = s.com.hl.set k (accumulated (s.com.hl.get k) a) := by
  rw [accumulate_of_sector sector]
  rfl

/-- Accumulating leaves the control registers, STATUS among them. -/
theorem accumulate_ctl (h : BitVec 3) (a : Half) (s : State) : (accumulate h a s).ctl = s.ctl := by
  unfold accumulate
  split <;> rfl

/-! ## HL_FWD -/

/-- The forward sweep ends where a step would pass 65535 (45_commissioning.md R342). -/
theorem uopHlFwd_of_end {s : State} (top : 65535 - s.est.theta.toNat < atLeastOne s.com.sweepStep) :
    uopHlFwd s = (accumulate s.ctl.hallRaw s.est.theta s).onStatus fun x => { x with subphase := .hlRev } :=
  if_pos top

/-- Before its end the forward sweep steps the angle up (45_commissioning.md R342). -/
theorem uopHlFwd_of_step {s : State} (below : ¬ 65535 - s.est.theta.toNat < atLeastOne s.com.sweepStep) :
    uopHlFwd s = (accumulate s.ctl.hallRaw s.est.theta s).onEst fun x =>
      { x with theta := BitVec.ofNat 16 (s.est.theta.toNat + atLeastOne s.com.sweepStep) } :=
  if_neg below

/-- HL_FWD accumulates at its end and before it (45_commissioning.md R342). -/
theorem uopHlFwd_com (s : State) : (uopHlFwd s).com = (accumulate s.ctl.hallRaw s.est.theta s).com := by
  unfold uopHlFwd
  dsimp only
  split <;> rfl

/-- A lone HL_FWD leaves what the micro-operation leaves. -/
theorem exec_hlFwd_of_eq {s t : State} (h : uopHlFwd s = t) : exec .hlFwd s = .next t :=
  congrArg Host.Outcome.next h

/-- Settles O43: by the two things HL_FWD can do; a step that is taken stays below 65536 and so does not wrap. -/
theorem hlFwdSweepsUp : Obligations.HlFwdSweepsUp := by
  refine ⟨fun rest => rfl, fun s k number => ?_⟩
  have sector := (hallSector_eq_some_iff s.ctl.hallRaw k).mpr number
  have seen := accumulate_hl sector s.est.theta s
  have frame := uopFrame_accumulate sector s.est.theta s
  by_cases top : 65535 - s.est.theta.toNat < atLeastOne s.com.sweepStep
  · refine ⟨_, exec_hlFwd_of_eq (uopHlFwd_of_end top), seen, (if_pos top).mpr ⟨?_, ?_⟩⟩
    · rw [State.onStatus_ctl, accumulate_ctl]
    · exact frame.trans (uopFrame_onStatus _ _)
  · refine ⟨_, exec_hlFwd_of_eq (uopHlFwd_of_step top), seen, (if_neg top).mpr ⟨?_, ?_⟩⟩
    · exact Nat.mod_eq_of_lt (by have := s.est.theta.isLt; omega)
    · exact frame.trans (uopFrame_theta _ _)

/-! ## HL_FINISH -/

/-- LAST_HALL_CENTER takes the new centre of the sector LAST_HALL names (45_commissioning.md R344). -/
theorem relearnCenter_of_sector {s : State} {k : Fin 6} (sector : hallSector s.ctl.lastHall = some k) :
    relearnCenter s = s.onEst fun x => { x with lastHallCenter := (s.mot.ht.get k).center } := by
  simp only [relearnCenter, sector]

/-- Where LAST_HALL names no sector LAST_HALL_CENTER stays (45_commissioning.md R344). -/
theorem relearnCenter_of_none {s : State} (noSector : hallSector s.ctl.lastHall = none) : relearnCenter s = s := by
  simp only [relearnCenter, noSector]

/-- Taking the new centre changes no register but LAST_HALL_CENTER. -/
theorem uopFrame_relearnCenter (s : State) : UopFrame [.lastHallCenter] s (relearnCenter s) := by
  unfold relearnCenter
  split
  · exact uopFrame_lastHallCenter _ s
  · exact ⟨fun r _ => rfl, rfl, rfl, rfl, rfl⟩

/-- Taking the new centre changes nothing but the estimator's group. -/
theorem relearnCenter_groups (s : State) :
    (relearnCenter s).ctl = s.ctl ∧ (relearnCenter s).mot = s.mot ∧ (relearnCenter s).com = s.com := by
  unfold relearnCenter
  split <;> exact ⟨rfl, rfl, rfl⟩

/-- The state with the Hall table that HL_FINISH builds (45_commissioning.md R344). -/
def withLearnedTable (s : State) : State :=
  s.onMot fun m => { m with ht := Sector.ofFn fun k => learnedEntry (s.com.hl.get k) }

/-- HL_FINISH builds the table, takes the new centre and enters HallRun (45_commissioning.md R344). -/
theorem uopHlFinish_eq (s : State) :
    uopHlFinish s = (relearnCenter (withLearnedTable s)).onStatus fun x =>
      { x with opstate := .hallRun, htValid := true, dirty := true } := rfl

/-- HL_FINISH makes each sector's entry from its accumulators (45_commissioning.md R344). -/
theorem uopHlFinish_entry (s : State) (k : Fin 6) :
    (uopHlFinish s).mot.ht.get k = learnedEntry (s.com.hl.get k) := by
  obtain ⟨-, mot, -⟩ := relearnCenter_groups (withLearnedTable s)
  rw [uopHlFinish_eq, State.onStatus_mot, mot]
  exact Sector.get_ofFn _ k

/-- HL_FINISH leaves the accumulators. -/
theorem uopHlFinish_com (s : State) : (uopHlFinish s).com = s.com := by
  obtain ⟨-, -, com⟩ := relearnCenter_groups (withLearnedTable s)
  exact com

/-- The entry of a sector that was never seen is all zeros (45_commissioning.md R344). -/
theorem learnedEntry_of_unseen {acc : HlAcc} (unseen : acc.cnt.toNat = 0) : learnedEntry acc = ⟨0, 0, 0, 0⟩ :=
  if_pos unseen

/-- The entry of a sector that was seen: its mean angle, the mean offset rounded toward the reference, its count as the
width, and the bounds half the width away (45_commissioning.md R344). -/
theorem learnedEntry_of_seen {acc : HlAcc} (seen : acc.cnt.toNat ≠ 0) :
    let c := BitVec.ofInt 16 (acc.ref.toNat + Int.tdiv acc.sum.toInt acc.cnt.toNat)
    let w := min acc.cnt.toNat 65535
    learnedEntry acc = ⟨c - BitVec.ofNat 16 (w / 2), c + BitVec.ofNat 16 (w / 2), c, BitVec.ofNat 16 w⟩ :=
  if_neg seen

/-- The width of a sector that was seen is its count, up to 65535 (45_commissioning.md R344). -/
theorem learnedEntry_width {acc : HlAcc} (seen : acc.cnt.toNat ≠ 0) :
    (learnedEntry acc).width.toNat = min acc.cnt.toNat 65535 := by
  rw [learnedEntry_of_seen seen]
  exact Nat.mod_eq_of_lt (by omega)

/-- Start and end of every entry lie half the width before and after its centre (45_commissioning.md R344). -/
theorem learnedEntry_bounds (acc : HlAcc) :
    let e := learnedEntry acc
    e.start = e.center - BitVec.ofNat 16 (e.width.toNat / 2) ∧
      e.stop = e.center + BitVec.ofNat 16 (e.width.toNat / 2) := by
  dsimp only
  by_cases unseen : acc.cnt.toNat = 0
  · rw [learnedEntry_of_unseen unseen]
    exact ⟨rfl, rfl⟩
  · rw [learnedEntry_width unseen, learnedEntry_of_seen unseen]
    exact ⟨rfl, rfl⟩

/-- HL_FINISH changes no register but STATUS, LAST_HALL_CENTER and the Hall table. -/
theorem uopFrame_uopHlFinish (s : State) :
    UopFrame (.status :: .lastHallCenter :: Reg.hallTable) s (uopHlFinish s) := by
  rw [uopHlFinish_eq]
  have built := (uopFrame_ht _ s).trans (uopFrame_relearnCenter (withLearnedTable s))
  exact (built.trans (uopFrame_onStatus _ _)).mono (by decide)

/-- Settles O45: by each sector's learned entry, and the sector of LAST_HALL for the new centre. -/
theorem hlFinishBuildsTable : Obligations.HlFinishBuildsTable := by
  refine ⟨fun rest => rfl, fun s => ⟨uopHlFinish s, rfl, fun k => ?entry, ?status, fun k number => ?sector,
    fun noSector => ?noSector, uopFrame_uopHlFinish s⟩⟩
  case entry =>
    rw [uopHlFinish_entry]
    refine ⟨fun unseen => ?_, fun seen => ⟨?_, learnedEntry_width seen⟩, learnedEntry_bounds _⟩
    · rw [learnedEntry_of_unseen unseen]
      exact ⟨rfl, rfl⟩
    · rw [learnedEntry_of_seen seen]
  case status =>
    obtain ⟨ctl, -⟩ := relearnCenter_groups (withLearnedTable s)
    rw [uopHlFinish_eq, State.onStatus_ctl, ctl]
    rfl
  case sector =>
    have sector : hallSector (withLearnedTable s).ctl.lastHall = some k := (hallSector_eq_some_iff _ k).mpr number
    rw [uopHlFinish_eq, relearnCenter_of_sector sector]
    rfl
  case noSector =>
    have unnamed : hallSector (withLearnedTable s).ctl.lastHall = none := (hallSector_eq_none_iff _).mpr noSector
    rw [uopHlFinish_eq, relearnCenter_of_none unnamed]
    rfl

/-! ## Both sweeps -/

/-- HL_REV accumulates, at its end too (45_commissioning.md R343). -/
theorem uopHlRev_com (s : State) : (uopHlRev s).com = (accumulate s.ctl.hallRaw s.est.theta s).com := by
  unfold uopHlRev
  dsimp only
  split
  · exact uopHlFinish_com _
  · rfl

/-- A step of either sweep completes, and of the commissioning registers it changes what the accumulation changes
(45_commissioning.md R342, R343). -/
theorem exec_sweep {i : Instr} (sweep : i = .hlFwd ∨ i = .hlRev) (s : State) :
    ∃ t, exec i s = .next t ∧ t.com = (accumulate s.ctl.hallRaw s.est.theta s).com := by
  obtain rfl | rfl := sweep
  · exact ⟨uopHlFwd s, rfl, uopHlFwd_com s⟩
  · exact ⟨uopHlRev s, rfl, uopHlRev_com s⟩

/-- Settles O42: either sweep accumulates, which replaces the accumulators of the sector seen alone. -/
theorem sweepAccumulates : Obligations.SweepAccumulates := by
  intro i s k sweep number
  have sector := (hallSector_eq_some_iff s.ctl.hallRaw k).mpr number
  obtain ⟨t, runs, com⟩ := exec_sweep sweep s
  refine ⟨t, runs, ?_⟩
  rw [com, accumulate_hl sector]
  refine ⟨?seen, fun j elsewhere => ?others⟩
  case seen =>
    rw [Sector.get_set, if_pos rfl]
    exact ⟨rfl, rfl, satInc_toNat _⟩
  case others => rw [Sector.get_set, if_neg elsewhere]

end Sys2Proof.Machine
end

section
/-! PROOFS. The host interface (46_host_interface.md): what an RD answers, and what the commands FAULT_RESET and
CLEAR_DIRTY change. -/

namespace Sys2Proof.Machine

/-! ## The fields of a head -/

/-- The fields of a head built from its fields (30_encoding.md R132). -/
theorem mkHead_fields (op : BitVec 2) (addr : BitVec 12) (data : Word) :
    headOp (mkHead op addr data) = op ∧ headReserved (mkHead op addr data) = 0 ∧
      headAddr (mkHead op addr data) = addr ∧ headData (mkHead op addr data) = data := by
  simp only [headOp, headReserved, headAddr, headData, mkHead]
  refine ⟨?_, ?_, ?_, ?_⟩ <;> ext i hi <;> grind

/-- The head of an RD decodes to it (30_encoding.md R133). -/
theorem decode_rdHead (a : BitVec 12) (rest : List BusWord) :
    decode (.head (mkHead 0 a 0) :: rest) = .ok (.rd a, rest) := by
  simp [decode, headLegal, mkHead_fields]

/-! ## RD -/

/-- A mapped register is read by its value (46_host_interface.md R370). -/
theorem hostRead_busAddr (r : Reg) (s : State) : hostRead r.busAddr s = s.respond (.data (r.read s)) := by
  simp [hostRead]

/-- Settles O7: a read is one response, the register found at the address or the bus error. -/
theorem readReturnsRegister : Obligations.ReadReturnsRegister := by
  refine ⟨fun a => ?head, fun s a unseen => ?unseen, fun s a seen bad => ?bad, fun s r seen => ?mapped⟩
  case head =>
    obtain ⟨op, -, addr, -⟩ := mkHead_fields 0 a 0
    exact ⟨mkHead 0 a 0, op, addr, decode_rdHead a⟩
  case unseen => exact afterReset_of_unseen unseen fun s => .next (hostRead a s)
  case bad =>
    rw [exec_rd_of_seen seen, hostRead_of_none (Reg.ofAddr_eq_none bad)]
    exact ⟨rfl, hostFrame_respond s _⟩
  case mapped =>
    rw [exec_rd_of_seen seen, hostRead_busAddr]
    exact ⟨rfl, hostFrame_respond s _, by rintro rfl; rfl, by rintro rfl; rfl, r.read_fieldsWithin s⟩

/-! ## The commands -/

/-- An operation of a transaction and the response after it have the operation's frame. -/
theorem UopFrame.respond {ws : List Reg} {s t : State} (h : UopFrame ws s t) (x : Response) :
    HostFrame ws x s (t.respond x) := by
  obtain ⟨regs, cyc, seen, stream, responses⟩ := h
  exact ⟨fun r other => (r.read_respond t x).trans (regs r other), cyc, seen, stream, congrArg (· ++ [x]) responses⟩

/-- After the first RESET a FAULT_RESET without bit 1 is the return from Error (46_host_interface.md R376). -/
theorem exec_faultReset_of_seen {s : State} (h : s.resetSeen = true) (ign : BitVec 30) :
    exec (.faultReset 0 ign) s = .next ((leaveError s).respond .ok) :=
  afterReset_of_seen h fun s => .next ((leaveError s).respond .ok)

/-- After the first RESET a CLEAR_DIRTY clears the flag (46_host_interface.md R377). -/
theorem exec_clearDirty_of_seen {s : State} (h : s.resetSeen = true) (ign : BitVec 30) :
    exec (.clearDirty ign) s = .next ((clearDirtyFlag s).respond .ok) :=
  afterReset_of_seen h fun s => .next ((clearDirtyFlag s).respond .ok)

/-- The return from Error changes no register but FAULT, STATUS and the integrators (46_host_interface.md R376). -/
theorem uopFrame_leaveError (s : State) : UopFrame [.fault, .status, .intD, .intQ] s (leaveError s) := by
  obtain ⟨records, cyc⟩ := leaveError_records s
  refine ⟨fun r other => ?_, cyc, records⟩
  obtain ⟨-, out⟩ | ⟨-, out⟩ := leaveError_cases s <;> rw [out]
  cases r
  case fault | status | intD | intQ => simp at other
  all_goals rfl

/-- Settles O11: FAULT_RESET is the return from Error, CLEAR_DIRTY a change of the STATUS fields, each with its frame. -/
theorem commandsResetFaultAndDirty : Obligations.CommandsResetFaultAndDirty := by
  refine ⟨fun rest => ⟨rfl, rfl⟩, fun s ign seen => ⟨?clearDirty, ?faultReset⟩⟩
  case clearDirty =>
    exact ⟨_, exec_clearDirty_of_seen seen ign, rfl, (uopFrame_onStatus _ s).respond .ok⟩
  case faultReset =>
    have frame := (uopFrame_leaveError s).respond .ok
    refine ⟨_, exec_faultReset_of_seen seen ign, ?_⟩
    obtain ⟨inError, out⟩ | ⟨outside, out⟩ := leaveError_cases s <;> rw [out] at frame ⊢
    · exact ⟨fun _ => ⟨rfl, rfl, rfl, rfl, rfl, rfl, frame⟩, absurd inError⟩
    · exact ⟨fun inError => absurd inError outside, fun _ => rfl⟩

end Sys2Proof.Machine
end

section
/-! PROOFS. The hardware break (60_exceptions.md R408, R410): SAMPLE alone reads the port HWBRK and writes HW_BRK, so both
pass through the rest of a cycle without influence, and no instruction but RESET clears HW_BRK. -/

namespace Sys2Proof.Machine

/-! ## States that differ in the hardware break -/

/-- The state with other port values presented and another HW_BRK. -/
def State.withBreak (ports : Option Ports) (b : Bool) (s : State) : State :=
  (s.onStatus fun x => { x with hwBrk := b }).onCyc fun x => { x with ports := ports }

/-- Change the state that a micro-operation or a sequence leaves, however it ended. -/
def UopOut.map (f : State → State) : UopOut → UopOut
  | .done s => .done (f s)
  | .raised s => .raised (f s)

@[simp] theorem UopOut.map_done (f : State → State) (s : State) : (UopOut.done s).map f = .done (f s) := rfl

@[simp] theorem UopOut.map_raised (f : State → State) (s : State) : (UopOut.raised s).map f = .raised (f s) := rfl

@[simp] theorem UopOut.map_state (f : State → State) (out : UopOut) : (out.map f).state = f out.state := by
  cases out <;> rfl

/-- The last part of TRACK: it has consumed the cycle's events (42_estimator.md R224). -/
def dropEvents (s : State) : State := (s.onCyc fun x => { x with hallEvt := none, fluxEvt := none }).drawn

/-- Writing back the ports and the HW_BRK that stand there changes nothing. -/
@[simp] theorem State.withBreak_self (s : State) : s.withBreak s.cyc.ports s.ctl.status.hwBrk = s := rfl

section
variable (ports : Option Ports) (b : Bool) (s : State)

@[simp] theorem State.withBreak_hwBrk : (s.withBreak ports b).ctl.status.hwBrk = b := rfl

@[simp] theorem State.withBreak_opstate : (s.withBreak ports b).ctl.status.opstate = s.ctl.status.opstate := rfl

@[simp] theorem State.withBreak_hallRaw : (s.withBreak ports b).ctl.hallRaw = s.ctl.hallRaw := rfl

@[simp] theorem State.withBreak_lastHall : (s.withBreak ports b).ctl.lastHall = s.ctl.lastHall := rfl

@[simp] theorem State.withBreak_eventIn : (s.withBreak ports b).eventIn = s.eventIn := rfl

/-! ## Each micro-operation but SAMPLE passes both through

The change `withBreak` moves past an operation: where the operation branches, it moves into the branches, whose
conditions do not see it. -/

theorem latchFault_withBreak (code : FaultCode) :
    latchFault code (s.withBreak ports b) = (latchFault code s).withBreak ports b := by
  unfold latchFault
  rw [apply_ite (State.withBreak ports b)]
  rfl

theorem raiseFault_withBreak (code : FaultCode) :
    raiseFault code (s.withBreak ports b) = (raiseFault code s).withBreak ports b := by
  unfold raiseFault
  rw [latchFault_withBreak]
  rfl

theorem uopWarmup_withBreak : uopWarmup (s.withBreak ports b) = (uopWarmup s).withBreak ports b := by
  unfold uopWarmup
  rw [apply_ite (State.withBreak ports b)]
  rfl

theorem uopPi_withBreak : uopPi (s.withBreak ports b) = (uopPi s).withBreak ports b := by
  unfold uopPi
  rw [apply_ite (State.withBreak ports b)]
  rfl

theorem uopHlAlign_withBreak : uopHlAlign (s.withBreak ports b) = (uopHlAlign s).withBreak ports b := by
  unfold uopHlAlign
  rw [apply_ite (State.withBreak ports b)]
  rfl

theorem uopClark_withBreak (v : ClarkVar) :
    uopClark v (s.withBreak ports b) = (uopClark v s).withBreak ports b := by
  cases v <;> rfl

theorem uopClarksel_withBreak : uopClarksel (s.withBreak ports b) = (uopClarksel s).withBreak ports b :=
  uopClark_withBreak ports b (s.onStatus fun t => { t with clarkVar := clarkChoice s.foc.ccr s.ctl.clarkSat }) _

theorem trackTimeout_withBreak : trackTimeout (s.withBreak ports b) = (trackTimeout s).withBreak ports b := by
  unfold trackTimeout
  rw [apply_ite (State.withBreak ports b)]
  rfl

theorem uopTrack_withBreak : uopTrack (s.withBreak ports b) = (uopTrack s).withBreak ports b := by
  unfold uopTrack
  rw [State.withBreak_eventIn]
  cases s.eventIn with
  | none =>
    exact congrArg dropEvents
      (trackTimeout_withBreak ports b (trackAdvance (s.onEst fun x => { x with trkCnt := satInc s.est.trkCnt })))
  | some e =>
    exact congrArg dropEvents (trackTimeout_withBreak ports b (trackAdvance (trackEvent e (satInc s.est.trkCnt) s)))

theorem uopFsm_withBreak : uopFsm (s.withBreak ports b) = (uopFsm s).withBreak ports b := by
  unfold uopFsm
  rw [State.withBreak_opstate]
  cases s.ctl.status.opstate
  case idle | measuring =>
    simp only [apply_ite (State.withBreak ports b)]
    rfl
  all_goals rfl

theorem uopMeasRl_withBreak : uopMeasRl (s.withBreak ports b) = (uopMeasRl s).withBreak ports b := by
  unfold uopMeasRl measRipple
  simp only [apply_ite (State.withBreak ports b), apply_ite State.drawn, apply_ite advanceMeas]
  rfl

theorem accumulate_withBreak (h : BitVec 3) (a : Half) :
    accumulate h a (s.withBreak ports b) = (accumulate h a s).withBreak ports b := by
  unfold accumulate
  cases hallSector h <;> rfl

theorem uopHlFwd_withBreak : uopHlFwd (s.withBreak ports b) = (uopHlFwd s).withBreak ports b := by
  unfold uopHlFwd
  rw [apply_ite (State.withBreak ports b)]
  dsimp only
  rw [accumulate_withBreak]
  rfl

theorem relearnCenter_withBreak : relearnCenter (s.withBreak ports b) = (relearnCenter s).withBreak ports b := by
  unfold relearnCenter
  rw [State.withBreak_lastHall]
  cases hallSector s.ctl.lastHall <;> rfl

theorem uopHlFinish_withBreak : uopHlFinish (s.withBreak ports b) = (uopHlFinish s).withBreak ports b := by
  have table : withLearnedTable (s.withBreak ports b) = (withLearnedTable s).withBreak ports b := rfl
  rw [uopHlFinish_eq, uopHlFinish_eq, table, relearnCenter_withBreak]
  rfl

theorem uopHlRev_withBreak : uopHlRev (s.withBreak ports b) = (uopHlRev s).withBreak ports b := by
  unfold uopHlRev
  rw [apply_ite (State.withBreak ports b)]
  dsimp only
  rw [accumulate_withBreak, uopHlFinish_withBreak]
  rfl

theorem uopProtect_withBreak : uopProtect (s.withBreak ports b) = (uopProtect s).map (State.withBreak ports b) := by
  unfold uopProtect
  simp only [apply_ite (UopOut.map (State.withBreak ports b)), UopOut.map_raised, UopOut.map_done]
  rw [← raiseFault_withBreak]
  rfl

theorem uopHall_withBreak : uopHall (s.withBreak ports b) = (uopHall s).map (State.withBreak ports b) := by
  unfold uopHall
  rw [State.withBreak_hallRaw]
  dsimp only
  cases hallSector s.ctl.hallRaw with
  | none => exact congrArg UopOut.raised (raiseFault_withBreak ports b s _)
  | some k =>
    dsimp only
    rw [apply_ite (UopOut.map (State.withBreak ports b))]
    rfl

theorem uopDetect_withBreak : uopDetect (s.withBreak ports b) = (uopDetect s).map (State.withBreak ports b) := by
  unfold uopDetect
  simp only [apply_ite (UopOut.map (State.withBreak ports b)), UopOut.map_raised, UopOut.map_done]
  rw [← raiseFault_withBreak]
  rfl

/-- No micro-operation but SAMPLE reads or writes the presented ports or HW_BRK (60_exceptions.md R410). -/
theorem runUop_withBreak {u : Uop} (notSample : u ≠ .sample) :
    runUop u (s.withBreak ports b) = (runUop u s).map (State.withBreak ports b) := by
  cases u
  case sample => exact absurd rfl notSample
  case warmup => exact congrArg UopOut.done (uopWarmup_withBreak ports b s)
  case protect => exact uopProtect_withBreak ports b s
  case hall => exact uopHall_withBreak ports b s
  case track => exact congrArg UopOut.done (uopTrack_withBreak ports b s)
  case pi => exact congrArg UopOut.done (uopPi_withBreak ports b s)
  case fsm => exact congrArg UopOut.done (uopFsm_withBreak ports b s)
  case measRl => exact congrArg UopOut.done (uopMeasRl_withBreak ports b s)
  case hlAlign => exact congrArg UopOut.done (uopHlAlign_withBreak ports b s)
  case hlFwd => exact congrArg UopOut.done (uopHlFwd_withBreak ports b s)
  case hlRev => exact congrArg UopOut.done (uopHlRev_withBreak ports b s)
  case hlFinish => exact congrArg UopOut.done (uopHlFinish_withBreak ports b s)
  case detect => exact uopDetect_withBreak ports b s
  case clarksel => exact congrArg UopOut.done (uopClarksel_withBreak ports b s)
  all_goals rfl

/-! ## Sequences and cycles after SAMPLE -/

/-- What replaces the rest of a sequence holds no SAMPLE either (44_state_machine.md R303). -/
theorem sample_notMem_restAfter {us : List Uop} (noSample : .sample ∉ us) (u : Uop) (before after : OpState) :
    .sample ∉ restAfter u before after us := by
  unfold restAfter
  split
  · decide
  · exact noSample

theorem runFor_withBreak (fuel : Nat) {us : List Uop} (noSample : .sample ∉ us) :
    runFor fuel us (s.withBreak ports b) = (runFor fuel us s).map (State.withBreak ports b) := by
  induction fuel generalizing us s with
  | zero => cases us <;> rfl
  | succ fuel ih =>
    cases us with
    | nil => rfl
    | cons u us =>
      have notSample : u ≠ .sample := (List.ne_of_not_mem_cons noSample).symm
      have restNoSample : .sample ∉ us := List.not_mem_of_not_mem_cons noSample
      unfold runFor
      rw [runUop_withBreak ports b s notSample]
      cases runUop u s with
      | raised t => rfl
      | done t => exact ih t (sample_notMem_restAfter restNoSample _ _ _)

/-- A sequence without SAMPLE passes the presented ports and HW_BRK through. -/
theorem runSeq_withBreak {us : List Uop} (noSample : .sample ∉ us) :
    runSeq us (s.withBreak ports b) = (runSeq us s).map (State.withBreak ports b) :=
  runFor_withBreak ports b s _ noSample

/-- SAMPLE begins the common sequence and does not come again in it (44_state_machine.md R291). -/
theorem commonSeq_sample : commonSeq s = .sample :: (commonSeq s).tail ∧ .sample ∉ (commonSeq s).tail := by
  unfold commonSeq
  split <;> decide

/-- No state's sequence samples again (44_state_machine.md R292). -/
theorem sample_notMem_stateSeq {st : OpState} {sub : SubPhase} {us : List Uop} (selected : stateSeq st sub = some us) :
    .sample ∉ us := by
  cases st
  case measuring => cases sub <;> cases selected <;> decide
  all_goals cases selected <;> decide

/-- The part of a fast cycle that follows SAMPLE (44_state_machine.md R290). -/
def cycleAfterSample (s : State) : Option State :=
  match runSeq (commonSeq s).tail s with
  | .raised t => some t
  | .done t => (stateAction t).map fun act => (act t).state

/-- A fast cycle that is not refused samples, and goes on from there (44_state_machine.md R290, R291). -/
theorem fastCycle_eq_bind : fastCycle s = (stateAction s).bind fun _ => cycleAfterSample (uopSample s) := by
  have first : runSeq (commonSeq s) s = runSeq (commonSeq (uopSample s)).tail (uopSample s) := by
    obtain ⟨begins, -⟩ := commonSeq_sample s
    rw [begins]
    rfl
  unfold fastCycle cycleAfterSample
  rw [first]
  cases stateAction s with
  | none => rfl
  | some _ =>
    cases runSeq (commonSeq (uopSample s)).tail (uopSample s) with
    | raised t => rfl
    | done t => cases h : stateAction t <;> simp [h]

/-- After SAMPLE a cycle passes the presented ports and HW_BRK through. -/
theorem cycleAfterSample_withBreak :
    cycleAfterSample (s.withBreak ports b) = (cycleAfterSample s).map (State.withBreak ports b) := by
  obtain ⟨-, noSample⟩ := commonSeq_sample s
  have common : commonSeq (s.withBreak ports b) = commonSeq s := rfl
  unfold cycleAfterSample
  rw [common, runSeq_withBreak ports b s noSample]
  cases runSeq (commonSeq s).tail s with
  | raised t => rfl
  | done t =>
    have selects : (t.withBreak ports b).seq = t.seq := rfl
    simp only [UopOut.map_done, stateAction_default, selects]
    cases selected : t.seq with
    | none => rfl
    | some us => simp [runSeq_withBreak ports b t (sample_notMem_stateSeq selected)]

end

/-! ## The hardware break in a cycle -/

/-- A micro-operation but SAMPLE keeps HW_BRK. -/
theorem runUop_hwBrk {u : Uop} (notSample : u ≠ .sample) (s : State) :
    (runUop u s).state.ctl.status.hwBrk = s.ctl.status.hwBrk := by
  have same := runUop_withBreak s.cyc.ports s.ctl.status.hwBrk s notSample
  rw [State.withBreak_self] at same
  rw [same, UopOut.map_state, State.withBreak_hwBrk]

/-- After SAMPLE a cycle keeps HW_BRK. -/
theorem cycleAfterSample_hwBrk {s t : State} (ends : cycleAfterSample s = some t) :
    t.ctl.status.hwBrk = s.ctl.status.hwBrk := by
  have same := cycleAfterSample_withBreak s.cyc.ports s.ctl.status.hwBrk s
  rw [State.withBreak_self, ends] at same
  rw [Option.some.inj same, State.withBreak_hwBrk]

/-- A cycle sets HW_BRK by its port HWBRK or keeps it (60_exceptions.md R410). -/
theorem fastCycle_hwBrk {p : Ports} {s t : State} (cycle : fastCycle (presentPorts p s) = some t) :
    t.ctl.status.hwBrk = (s.ctl.status.hwBrk || p.hwbrk == 1) := by
  rw [fastCycle_eq_bind, Option.bind_eq_some_iff] at cycle
  obtain ⟨-, -, rest⟩ := cycle
  exact cycleAfterSample_hwBrk rest

/-- SAMPLE without the port HWBRK keeps HW_BRK and latches the same samples (40_signal_pipeline.md R161). -/
theorem uopSample_noBreak (p : Ports) (s : State) :
    uopSample (presentPorts { p with hwbrk := 0 } s) =
      (uopSample (presentPorts p s)).withBreak (some { p with hwbrk := 0 }) s.ctl.status.hwBrk := by
  rw [← Bool.or_false s.ctl.status.hwBrk]
  rfl

/-- The cycle without the port HWBRK is the cycle with it but for HW_BRK and the port (60_exceptions.md R410). -/
theorem fastCycle_noBreak (p : Ports) (s : State) :
    fastCycle (presentPorts { p with hwbrk := 0 } s) =
      (fastCycle (presentPorts p s)).map (State.withBreak (some { p with hwbrk := 0 }) s.ctl.status.hwBrk) := by
  have action : stateAction (presentPorts { p with hwbrk := 0 } s) = stateAction (presentPorts p s) := rfl
  rw [fastCycle_eq_bind, fastCycle_eq_bind, uopSample_noBreak, cycleAfterSample_withBreak, action, Option.map_bind]
  rfl

/-- At the end of a TICK the ports are gone, and HW_BRK is all that is left of the difference. -/
theorem endTick_withBreak (ports : Option Ports) (b : Bool) (s : State) :
    endTick (s.withBreak ports b) = (endTick s).onStatus fun x => { x with hwBrk := b } := rfl

/-! ## The hardware break in an instruction -/

/-- After the first RESET a TICK whose cycle is not refused completes (46_host_interface.md R372). -/
theorem exec_tick_of_cycle {s t : State} {hwbrk : BitVec 1} {probe : BitVec 4} {hall : BitVec 3} {ia ib ic vbus : Half}
    (seen : s.resetSeen = true)
    (cycle : fastCycle (presentPorts ⟨⟨ia, ib, ic, vbus⟩, hall, probe, hwbrk⟩ s) = some t) :
    exec (.tick hwbrk probe hall ia ib ic vbus) s = .next (endTick t) := by
  simp only [exec, execTick, tickWith, afterReset_of_seen seen, cycle]

/-- A TICK that completes came after the first RESET (70_reset_and_hazards.md R451). -/
theorem resetSeen_of_exec_tick {s t : State} {hwbrk : BitVec 1} {probe : BitVec 4} {hall : BitVec 3}
    {ia ib ic vbus : Half} (ends : exec (.tick hwbrk probe hall ia ib ic vbus) s = .next t) : s.resetSeen = true := by
  unfold exec execTick at ends
  obtain ⟨seen, -⟩ := afterReset_next ends
  exact seen

/-- The return from Error keeps HW_BRK. -/
theorem leaveError_hwBrk (s : State) : (leaveError s).ctl.status.hwBrk = s.ctl.status.hwBrk := by
  unfold leaveError
  split <;> rfl

/-- The commands of a WR to CMD keep HW_BRK. -/
theorem runCommands_hwBrk (v : Word) (s : State) : (runCommands v s).ctl.status.hwBrk = s.ctl.status.hwBrk := by
  rw [runCommands_cases]
  split
  case h_1 | h_2 => rfl
  all_goals exact leaveError_hwBrk s

/-- A host read keeps HW_BRK. -/
theorem hostRead_hwBrk (a : BitVec 12) (s : State) : (hostRead a s).ctl.status.hwBrk = s.ctl.status.hwBrk := by
  obtain ⟨r, -, out⟩ | ⟨-, out⟩ := hostRead_cases a s <;> rw [out] <;> rfl

/-- No host write reaches HW_BRK (20_memory.md R106). -/
theorem hostWrite_hwBrk (a : BitVec 12) (v : Word) (s : State) :
    (hostWrite a v s).ctl.status.hwBrk = s.ctl.status.hwBrk := by
  obtain ⟨r, -, -, out⟩ | ⟨r, -, -, out⟩ | ⟨r, -, -, out⟩ | ⟨-, out⟩ := hostWrite_cases a v s <;>
    rw [out, State.respond_ctl]
  · rw [Reg.write_ctl]
  · exact runCommands_hwBrk v s

/-- A host transaction but RESET does not clear HW_BRK. -/
theorem exec_transaction_hwBrk {i : Instr} {s t : State} (host : isTransaction i = true) (ends : exec i s = .next t)
    (notReset : i ≠ .reset) (set : s.ctl.status.hwBrk = true) : t.ctl.status.hwBrk = true := by
  cases i
  case rd a =>
    unfold exec execRd at ends
    obtain ⟨-, ran⟩ := afterReset_next ends
    cases ran
    rw [hostRead_hwBrk, set]
  case wr a v =>
    unfold exec execWr at ends
    obtain ⟨-, ran⟩ := afterReset_next ends
    cases ran
    rw [hostWrite_hwBrk, set]
  case tick =>
    obtain ⟨u, cycle, rfl⟩ := exec_tick_next ends
    exact (fastCycle_hwBrk cycle).trans (by rw [set, Bool.true_or])
  case reset => exact absurd rfl notReset
  case faultReset clr ign =>
    unfold exec execFaultReset at ends
    obtain ⟨-, ran⟩ := afterReset_next ends
    cases ran
    refine Eq.trans ?_ ((leaveError_hwBrk s).trans set)
    split <;> rfl
  case clearDirty =>
    unfold exec execClearDirty at ends
    obtain ⟨-, ran⟩ := afterReset_next ends
    cases ran
    exact set
  all_goals cases host

/-- A lone micro-operation does not clear HW_BRK: SAMPLE only ever sets it, no other one writes it. -/
theorem runUop_hwBrk_sticky (u : Uop) {s : State} (set : s.ctl.status.hwBrk = true) :
    (runUop u s).state.ctl.status.hwBrk = true := by
  by_cases sample : u = .sample
  · subst sample
    have latched : (runUop .sample s).state.ctl.status.hwBrk = (s.ctl.status.hwBrk || s.portsIn.hwbrk == 1) := rfl
    rw [latched, set, Bool.true_or]
  · rw [runUop_hwBrk sample, set]

/-- Settles O53: SAMPLE alone sees HWBRK and HW_BRK, so the cycles with and without HWBRK run alike after it. -/
theorem hardwareBreakIsSticky : Obligations.HardwareBreakIsSticky := by
  refine ⟨fun i s t ends notReset set => ?sticky, fun s t hwbrk probe hall ia ib ic vbus ends => ⟨?noBreak, ?latched⟩⟩
  case sticky =>
    obtain host | ⟨u, rfl⟩ := isTransaction_or_uopInstr i
    · exact exec_transaction_hwBrk host ends notReset set
    · rw [exec_uopInstr] at ends
      cases ends
      exact runUop_hwBrk_sticky u set
  case noBreak =>
    have seen := resetSeen_of_exec_tick ends
    obtain ⟨u, cycle, rfl⟩ := exec_tick_next ends
    have quiet := fastCycle_noBreak ⟨⟨ia, ib, ic, vbus⟩, hall, probe, hwbrk⟩ s
    rw [cycle] at quiet
    rw [exec_tick_of_cycle seen quiet, endTick_withBreak]
  case latched =>
    obtain ⟨u, cycle, rfl⟩ := exec_tick_next ends
    exact fastCycle_hwBrk cycle

end Sys2Proof.Machine
end

section
/-! PROOFS. Reset and the refusals by name (70_reset_and_hazards.md): RESET gives every register its reset value, and a
transaction before the first RESET or a TICK in a placeholder or reserved state is refused. -/

namespace Sys2Proof.Machine

/-! ## RESET -/

/-- The state after reset shows the reset column of the map: a bank's registers all show the bank's one reset value
(10_state.md R31, R90). -/
theorem Reg.read_reset (r : Reg) : r.read State.reset = r.resetValue := by
  cases r
  case fraw | raw | gain | offset | limHi | limLo | phys =>
    simp [Reg.read, State.reset, Ctl.reset, Pipe.reset, Reg.resetValue]
  case wsum | vph | ccr => simp [Reg.read, State.reset, Pipe.reset, Foc.reset, Reg.resetValue]
  case htSe | htCw | hlCnt | hlSum | hlRef => simp [Reg.read, State.reset, Mot.reset, Com.reset, Reg.resetValue]
  all_goals rfl

/-- What RESET keeps is no register's: each reads as in the state after reset (70_reset_and_hazards.md R450). -/
theorem Reg.read_resetBlock (r : Reg) (s : State) : r.read (resetBlock s) = r.read State.reset := rfl

/-- Settles O12: RESET keeps only records that no register shows, and the state after reset shows the reset column. -/
theorem resetSetsEveryRegister : Obligations.ResetSetsEveryRegister := by
  refine ⟨fun s => ⟨resetBlock s, rfl, rfl, fun r => ?_, rfl, rfl, rfl, rfl, rfl⟩, rfl, Reg.read_reset, rfl⟩
  rw [Reg.read_resetBlock, Reg.read_reset]

/-! ## Refusals by name -/

/-- Before the first RESET every transaction but RESET is refused (70_reset_and_hazards.md R451). -/
theorem exec_transaction_of_unseen {i : Instr} {s : State} (unseen : s.resetSeen = false)
    (host : isTransaction i = true) (notReset : i ≠ .reset) : exec i s = .refused .beforeReset := by
  cases i
  case rd | wr | tick | faultReset | clearDirty =>
    simp only [exec, execRd, execWr, execTick, execFaultReset, execClearDirty, afterReset_of_unseen unseen]
  case reset => exact absurd rfl notReset
  all_goals cases host

/-- A placeholder or reserved state selects no sequence (44_state_machine.md R292, R301). -/
theorem stateSeq_of_not_executing {o : OpState} {sub : SubPhase} (placeholder : executing o sub = false) :
    stateSeq o sub = none := by
  cases o
  case idle | detecting | hallRun | sensorlessRun | error => cases placeholder
  case measuring =>
    cases sub
    case reserved6 | reserved7 => rfl
    all_goals cases placeholder
  all_goals rfl

/-- A cycle of a state that selects no sequence is refused before any micro-operation runs (44_state_machine.md R301;
UNSPEC_STATE_ACTION at its default, 00_scope.md R12). -/
theorem fastCycle_of_no_seq {s : State} (noSeq : s.seq = none) : fastCycle s = none := by
  have action : stateAction s = none := stateAction_of_no_seq noSeq .default
  simp only [fastCycle, action]

/-- After the first RESET a TICK whose cycle is refused is refused by the name of the state's kind (44_state_machine.md
R301). -/
theorem exec_tick_of_no_cycle {s : State} {hwbrk : BitVec 1} {probe : BitVec 4} {hall : BitVec 3} {ia ib ic vbus : Half}
    (seen : s.resetSeen = true)
    (refused : fastCycle (presentPorts ⟨⟨ia, ib, ic, vbus⟩, hall, probe, hwbrk⟩ s) = none) :
    exec (.tick hwbrk probe hall ia ib ic vbus) s = .refused .placeholderState := by
  simp only [exec, execTick, tickWith, afterReset_of_seen seen, refused]

/-- Settles O13: the check for the first RESET stands before every other meaning, and a TICK's ports do not change the
sequence its state selects. -/
theorem refusalsByName : Obligations.RefusalsByName := by
  refine ⟨fun s i unseen host notReset => exec_transaction_of_unseen unseen host notReset,
    fun s hwbrk probe hall ia ib ic vbus seen placeholder => exec_tick_of_no_cycle seen (fastCycle_of_no_seq ?_)⟩
  exact stateSeq_of_not_executing placeholder

end Sys2Proof.Machine
end

section
/-! PROOFS. The encoding (30_encoding.md): decoding and encoding are inverse to each other, and a WR to CMD is the command
that its data names. -/

namespace Sys2Proof.Machine

/-! ## Heads -/

/-- A WR head with any data decodes to what its address and data say (30_encoding.md R134, R139). -/
theorem decode_wrHead (a : BitVec 12) (v : Word) (rest : List BusWord) :
    decode (.head (mkHead 1 a v) :: rest) = .ok (decodeWr a v, rest) := by
  simp [decode, headLegal, mkHead_fields]

/-- The fields of a port field (30_encoding.md R135). -/
theorem mkPorts_fields (hwbrk : BitVec 1) (probe : BitVec 4) (hall : BitVec 3) :
    let p := mkPorts hwbrk probe hall
    p.extractLsb' 8 4 = 0 ∧ p.extractLsb' 7 1 = hwbrk ∧ p.extractLsb' 3 4 = probe ∧ p.extractLsb' 0 3 = hall := by
  simp only [mkPorts]
  refine ⟨?_, ?_, ?_, ?_⟩ <;> ext i hi <;> grind

/-- The fields of a sample word (30_encoding.md R135). -/
theorem mkSample_fields (ia ib ic vbus : Half) :
    let w := mkSample ia ib ic vbus
    w.extractLsb' 0 16 = ia ∧ w.extractLsb' 16 16 = ib ∧ w.extractLsb' 32 16 = ic ∧ w.extractLsb' 48 16 = vbus := by
  simp only [mkSample]
  refine ⟨?_, ?_, ?_, ?_⟩ <;> ext i hi <;> grind

/-- A head is built from its fields when its reserved bits are zero (30_encoding.md R132). -/
theorem mkHead_of_fields {h : BitVec 48} (reserved : headReserved h = 0) :
    mkHead (headOp h) (headAddr h) (headData h) = h := by
  rw [mkHead, ← reserved]
  simp only [headOp, headReserved, headAddr, headData]
  ext i hi
  grind

/-- A port field is built from its fields when its reserved bits are zero. -/
theorem mkPorts_of_fields {p : BitVec 12} (reserved : p.extractLsb' 8 4 = 0) :
    mkPorts (p.extractLsb' 7 1) (p.extractLsb' 3 4) (p.extractLsb' 0 3) = p := by
  rw [mkPorts, ← reserved]
  ext i hi
  grind

/-- A sample word is built from its fields. -/
theorem mkSample_of_fields (w : BitVec 64) :
    mkSample (w.extractLsb' 0 16) (w.extractLsb' 16 16) (w.extractLsb' 32 16) (w.extractLsb' 48 16) = w := by
  rw [mkSample]
  ext i hi
  grind


/-! ## The rows of WR -/

/-- The fields of a FAULT_RESET's data (30_encoding.md R139). -/
theorem faultResetData_fields (clr : BitVec 1) (ign : BitVec 30) :
    let v : Word := ign ++ clr ++ (1 : BitVec 1)
    v.getLsbD 0 = true ∧ v.extractLsb' 1 1 = clr ∧ v.extractLsb' 2 30 = ign := by
  refine ⟨by rw [BitVec.getLsbD_append]; rfl, ?_, ?_⟩ <;> ext i hi <;> grind

/-- The fields of a CLEAR_DIRTY's data (30_encoding.md R139). -/
theorem clearDirtyData_fields (ign : BitVec 30) :
    let v : Word := ign ++ (2 : BitVec 2)
    v.getLsbD 0 = false ∧ v.getLsbD 1 = true ∧ v.extractLsb' 2 30 = ign := by
  refine ⟨by rw [BitVec.getLsbD_append]; rfl, by rw [BitVec.getLsbD_append]; rfl, ?_⟩
  ext i hi
  grind

/-- The data of a WR to CMD with bit 0 set reads as FAULT_RESET (30_encoding.md R139). -/
theorem decodeWr_of_faultReset {v : Word} (bit0 : v.getLsbD 0 = true) :
    decodeWr cmdAddr v = .faultReset (v.extractLsb' 1 1) (v.extractLsb' 2 30) :=
  if_pos ⟨rfl, bit0⟩

/-- The data of a WR to CMD with bit 1 alone set reads as CLEAR_DIRTY (30_encoding.md R139). -/
theorem decodeWr_of_clearDirty {v : Word} (bit0 : v.getLsbD 0 = false) (bit1 : v.getLsbD 1 = true) :
    decodeWr cmdAddr v = .clearDirty (v.extractLsb' 2 30) :=
  (if_neg fun ⟨_, set⟩ => Bool.false_ne_true (bit0.symm.trans set)).trans (if_pos ⟨rfl, bit1⟩)

/-- A WR is well formed when its data has no command bit or it does not go to CMD (30_encoding.md R139). -/
theorem wrOperandsOk_iff (a : BitVec 12) (v : Word) :
    wrOperandsOk a v = true ↔
      ¬ (a = cmdAddr ∧ v.getLsbD 0 = true) ∧ ¬ (a = cmdAddr ∧ v.getLsbD 1 = true) := by
  unfold wrOperandsOk
  cases v.getLsbD 0 <;> cases v.getLsbD 1 <;> simp

/-- Every other WR reads as itself (30_encoding.md R139). -/
theorem decodeWr_of_wellFormed {a : BitVec 12} {v : Word} (ok : wrOperandsOk a v = true) : decodeWr a v = .wr a v := by
  obtain ⟨noReset, noClear⟩ := (wrOperandsOk_iff a v).mp ok
  exact (if_neg noReset).trans (if_neg noClear)

/-- The three ways the data of a WR reads (30_encoding.md R139). -/
theorem decodeWr_cases (a : BitVec 12) (v : Word) :
    (a = cmdAddr ∧ v.getLsbD 0 = true) ∨ (a = cmdAddr ∧ v.getLsbD 0 = false ∧ v.getLsbD 1 = true) ∨
      wrOperandsOk a v = true := by
  rw [wrOperandsOk_iff]
  cases v.getLsbD 0 <;> simp
  tauto

/-- What a WR head reads as is well formed and is encoded as that head. -/
theorem decodeWr_sound (a : BitVec 12) (v : Word) :
    (decodeWr a v).wellFormed = true ∧ encode (decodeWr a v) = [.head (mkHead 1 a v)] := by
  obtain ⟨rfl, bit0⟩ | ⟨rfl, bit0, bit1⟩ | ok := decodeWr_cases a v
  · have data : v.extractLsb' 2 30 ++ v.extractLsb' 1 1 ++ (1 : BitVec 1) = v := by
      ext i hi
      grind
    rw [decodeWr_of_faultReset bit0, encode, data]
    exact ⟨rfl, rfl⟩
  · have data : v.extractLsb' 2 30 ++ (2 : BitVec 2) = v := by
      ext i hi
      grind
    rw [decodeWr_of_clearDirty bit0 bit1, encode, data]
    exact ⟨rfl, rfl⟩
  · rw [decodeWr_of_wellFormed ok]
    exact ⟨ok, rfl⟩

/-! ## Round trips -/

/-- A TICK's words decode to it (30_encoding.md R135, R137). -/
theorem decode_tickWords (hwbrk : BitVec 1) (probe : BitVec 4) (hall : BitVec 3) (ia ib ic vbus : Half)
    (rest : List BusWord) :
    decode (.head (mkHead 2 (mkPorts hwbrk probe hall) 0) :: .sample (mkSample ia ib ic vbus) :: rest) =
      .ok (.tick hwbrk probe hall ia ib ic vbus, rest) := by
  simp [decode, headLegal, mkHead_fields, mkPorts_fields, mkSample_fields, decodeTick]

/-- What a TICK's words read as is encoded as those words (30_encoding.md R135). -/
theorem encode_decodeTick {p : BitVec 12} (reserved : p.extractLsb' 8 4 = 0) (w : BitVec 64) :
    encode (decodeTick p w) = [.head (mkHead 2 p 0), .sample w] := by
  rw [decodeTick, encode, mkPorts_of_fields reserved, mkSample_of_fields]

/-- Settles O2: a transaction by the fields of its words, a micro-operation by its id. -/
theorem decodeOfEncode : Obligations.DecodeOfEncode := by
  intro i rest wf
  cases i
  case rd a => exact decode_rdHead a rest
  case wr a v => exact (decode_wrHead a v rest).trans (by rw [decodeWr_of_wellFormed wf])
  case tick hwbrk probe hall ia ib ic vbus => exact decode_tickWords hwbrk probe hall ia ib ic vbus rest
  case faultReset clr ign =>
    obtain ⟨bit0, clear, ignored⟩ := faultResetData_fields clr ign
    exact (decode_wrHead _ _ rest).trans (by rw [decodeWr_of_faultReset bit0, clear, ignored])
  case clearDirty ign =>
    obtain ⟨bit0, bit1, ignored⟩ := clearDirtyData_fields ign
    exact (decode_wrHead _ _ rest).trans (by rw [decodeWr_of_clearDirty bit0 bit1, ignored])
  all_goals rfl

/-- Each assigned uop id is the encoding of its micro-operation (30_encoding.md R143). -/
theorem decodeUop_sound : ∀ id : BitVec 6, ∀ i ∈ decodeUop id, i.wellFormed = true ∧ encode i = [.uop id] := by
  decide

/-- A legal head's reserved bits are zero, as are the fields its OP does not use (30_encoding.md R140). -/
theorem headLegal_fields {h : BitVec 48} (legal : headLegal h = true) :
    headReserved h = 0 ∧ (headOp h ≠ 1 → headData h = 0) ∧ (headOp h = 3 → headAddr h = 0) ∧
      (headOp h = 2 → (headAddr h).extractLsb' 8 4 = 0) := by
  have notIllegal := mt (headLegal_eq_false_iff h).mpr (ne_false_of_eq_true legal)
  simp only [ne_eq, head_bits_45_40_eq_zero_iff] at notIllegal
  tauto

/-- Settles O3: an accepted word is rebuilt from its fields, whose reserved ones are zero. -/
theorem encodeOfDecode : Obligations.EncodeOfDecode := by
  intro ws rest i decodes
  match ws with
  | [] => cases decodes
  | .sample _ :: _ => cases decodes
  | .uop id :: ws =>
    simp only [decode] at decodes
    split at decodes
    next j assigned =>
      cases decodes
      obtain ⟨wf, word⟩ := decodeUop_sound id i assigned
      exact ⟨wf, word ▸ rfl⟩
    next => cases decodes
  | .head h :: ws =>
    simp only [decode] at decodes
    split at decodes
    next legal =>
      obtain ⟨reserved, data, addr, ports⟩ := headLegal_fields legal
      have word := mkHead_of_fields reserved
      obtain op | op | op | op := op_cases (headOp h) <;> rw [op] at decodes word
      · rw [data (by simp [op])] at word
        cases decodes
        exact ⟨rfl, congrArg (.head · :: rest) word.symm⟩
      · obtain ⟨wf, words⟩ := decodeWr_sound (headAddr h) (headData h)
        cases decodes
        exact ⟨wf, by rw [words, word]; rfl⟩
      · rw [data (by simp [op])] at word
        match ws with
        | .sample w :: ws =>
          cases decodes
          exact ⟨rfl, by rw [encode_decodeTick (ports op), word]; rfl⟩
        | [] | .head _ :: _ | .uop _ :: _ => cases decodes
      · rw [data (by simp [op]), addr op] at word
        cases decodes
        exact ⟨rfl, congrArg (.head · :: rest) word.symm⟩
    next => cases decodes

/-- Settles O1: each word is closed, and the decoder computes. -/
theorem specWordsDecode : Obligations.SpecWordsDecode :=
  ⟨rfl, rfl, rfl, rfl, rfl, rfl, rfl, rfl, rfl, rfl, rfl, rfl, rfl⟩

/-! ## The step -/

/-- Settles O5: the fetch runs what the stream decodes to. -/
theorem stepRunsDecodedInstruction : Obligations.StepRunsDecodedInstruction := by
  intro s i rest decodes
  simp only [step, (fetch_run_iff s.stream i rest).mpr decodes]

/-! ## Commands -/

/-- A host write to CMD runs the commands its data names (46_host_interface.md R378). -/
theorem hostWrite_cmdAddr (v : Word) (s : State) : hostWrite cmdAddr v s = (runCommands v s).respond .ok :=
  have access : Reg.cmd.access = .wo := rfl
  have mapped : Reg.ofAddr cmdAddr = some .cmd := Reg.ofAddr_busAddr .cmd
  by simp [hostWrite, mapped, access]

/-- A bit of a word as a field of one bit. -/
theorem extractLsb'_one_eq_one_iff (v : Word) (i : Nat) : v.extractLsb' i 1 = 1 ↔ v.getLsbD i = true := by
  simp [← BitVec.toNat_inj, Nat.shiftRight_eq_div_pow, BitVec.getLsbD, Nat.testBit_eq_decide_div_mod_eq]

/-- The commands of data with bit 0 set: the return from Error, and CLEAR_DIRTY after it where bit 1 asks for it
(46_host_interface.md R378). -/
theorem runCommands_of_faultReset {v : Word} (bit0 : v.getLsbD 0 = true) (s : State) :
    runCommands v s = if v.extractLsb' 1 1 = 1 then clearDirtyFlag (leaveError s) else leaveError s := by
  simp only [runCommands, bit0, extractLsb'_one_eq_one_iff, if_true]

/-- The commands of data with bit 1 alone set: CLEAR_DIRTY (46_host_interface.md R377). -/
theorem runCommands_of_clearDirty {v : Word} (bit0 : v.getLsbD 0 = false) (bit1 : v.getLsbD 1 = true) (s : State) :
    runCommands v s = clearDirtyFlag s := by
  simp only [runCommands_cases, bit0, bit1]

/-- The commands of data with neither bit set: none (46_host_interface.md R378). -/
theorem runCommands_of_none {v : Word} (bit0 : v.getLsbD 0 = false) (bit1 : v.getLsbD 1 = false) (s : State) :
    runCommands v s = s := by
  simp only [runCommands_cases, bit0, bit1]

/-- A WR to CMD is the command that its data reads as (30_encoding.md R139). -/
theorem exec_wr_cmdAddr (v : Word) (s : State) : exec (.wr cmdAddr v) s = exec (decodeWr cmdAddr v) s := by
  have write : exec (.wr cmdAddr v) s = afterReset s fun s => .next ((runCommands v s).respond .ok) := by
    simp only [exec, execWr, hostWrite_cmdAddr]
  obtain ⟨-, bit0⟩ | ⟨-, bit0, bit1⟩ | ok := decodeWr_cases cmdAddr v
  · simp only [write, decodeWr_of_faultReset bit0, runCommands_of_faultReset bit0]
    rfl
  · simp only [write, decodeWr_of_clearDirty bit0 bit1, runCommands_of_clearDirty bit0 bit1]
    rfl
  · rw [decodeWr_of_wellFormed ok]

/-- FAULT_RESET is the WR to CMD that it is written as (30_encoding.md R139). -/
theorem exec_faultReset_eq_wr (clr : BitVec 1) (ign : BitVec 30) (s : State) :
    exec (.faultReset clr ign) s = exec (.wr cmdAddr (ign ++ clr ++ (1 : BitVec 1))) s := by
  obtain ⟨bit0, clear, ignored⟩ := faultResetData_fields clr ign
  rw [exec_wr_cmdAddr, decodeWr_of_faultReset bit0, clear, ignored]

/-- CLEAR_DIRTY is the WR to CMD that it is written as (30_encoding.md R139). -/
theorem exec_clearDirty_eq_wr (ign : BitVec 30) (s : State) :
    exec (.clearDirty ign) s = exec (.wr cmdAddr (ign ++ (2 : BitVec 2))) s := by
  obtain ⟨bit0, bit1, ignored⟩ := clearDirtyData_fields ign
  rw [exec_wr_cmdAddr, decodeWr_of_clearDirty bit0 bit1, ignored]

/-- Settles O10: a write to CMD runs the commands of its data's two low bits. -/
theorem commandWordsAreWrites : Obligations.CommandWordsAreWrites := by
  refine ⟨fun s v => exec_wr_cmdAddr v s, fun s ign seen => ⟨?both, ?neither⟩⟩
  case both => exact afterReset_of_seen seen fun s => .next ((clearDirtyFlag (leaveError s)).respond .ok)
  case neither =>
    rw [exec_wr_of_seen seen, hostWrite_cmdAddr, runCommands_of_none] <;> (rw [BitVec.getLsbD_append]; rfl)

end Sys2Proof.Machine
end

section
/-! PROOFS. The fast cycle (44_state_machine.md R290 to R303), run: a sequence one micro-operation at a time, and a cycle as
what comes before PROTECT, PROTECT, and the sequence of the state. -/

namespace Sys2Proof.Machine

/-! ## Sequences, one micro-operation at a time -/

/-- A sequence that has ended. -/
theorem runSeq_nil (s : State) : runSeq [] s = .done s := rfl

theorem runFor_nil (fuel : Nat) (s : State) : runFor fuel [] s = .done s := by cases fuel <;> rfl

/-- A fault ends the sequence (44_state_machine.md R293). -/
theorem runSeq_of_raised {u : Uop} {us : List Uop} {s t : State} (out : runUop u s = .raised t) :
    runSeq (u :: us) s = .raised t := by
  simp only [runSeq, runFor, out]

/-- Where FSM changes the state OUTOFF replaces the rest (44_state_machine.md R303). -/
theorem runSeq_of_fsm_moves {us : List Uop} {s : State}
    (moves : (uopFsm s).ctl.status.opstate ≠ s.ctl.status.opstate) :
    runSeq (.fsm :: us) s = .done (outputsOff (uopFsm s)) := by
  have rest : restAfter .fsm s.ctl.status.opstate (uopFsm s).ctl.status.opstate us = [.outoff] := if_pos ⟨rfl, moves⟩
  simp only [runSeq, List.length_cons, runFor, runUop, rest]
  exact runFor_nil us.length (outputsOff (uopFsm s))

/-- Otherwise the sequence goes on (44_state_machine.md R303). -/
theorem runSeq_of_done {u : Uop} {us : List Uop} {s t : State} (out : runUop u s = .done t)
    (stays : ¬ (u = .fsm ∧ t.ctl.status.opstate ≠ s.ctl.status.opstate)) : runSeq (u :: us) s = runSeq us t := by
  have rest : restAfter u s.ctl.status.opstate t.ctl.status.opstate us = us := if_neg stays
  simp only [runSeq, runFor, out, List.length_cons, rest]

/-! ## The micro-operations that raise -/

/-- A fault is raised by PROTECT, HALL or DETECT alone (41_protection.md R201, 42_estimator.md R220, 44_state_machine.md
R305). -/
theorem runUop_raised_cases {u : Uop} {s t : State} (out : runUop u s = .raised t) :
    (u = .protect ∧ Trips s ∧ t = raiseFault .overLimit (snapshotRaw (countViolation s))) ∨
    (u = .hall ∧ t = raiseFault (invalidHallCode s.ctl.hallRaw) s) ∨
    (u = .detect ∧ t = raiseFault .genericHallFault s) := by
  cases u
  case protect =>
    rw [show runUop .protect s = uopProtect s from rfl] at out
    by_cases viol : s.violation = true
    · by_cases trips : Trips s
      · rw [uopProtect_of_trips viol trips] at out
        cases out
        exact .inl ⟨rfl, trips, rfl⟩
      · rw [uopProtect_of_not_trips viol trips] at out
        cases out
    · rw [uopProtect_of_not_violation viol] at out
      cases out
  case hall =>
    rw [show runUop .hall s = uopHall s from rfl] at out
    obtain ⟨x, raised, -, rfl⟩ | ⟨x, k, done, -⟩ := uopHall_cases s
    · rw [raised] at out
      cases out
      exact .inr (.inl ⟨rfl, rfl⟩)
    · rw [done] at out
      cases out
  case detect =>
    rw [show runUop .detect s = uopDetect s from rfl] at out
    obtain ⟨outcome, -⟩ | ⟨outcome, -⟩ | ⟨outcome, -⟩ | ⟨outcome, -⟩ := uopDetect_cases s <;> rw [outcome] at out <;>
      cases out
    exact .inr (.inr ⟨rfl, rfl⟩)
  all_goals cases out

/-- A micro-operation that raises leaves what taking a fault leaves, with a code (60_exceptions.md R402). -/
theorem runUop_raised {u : Uop} {s t : State} (out : runUop u s = .raised t) :
    ∃ code x, code ≠ .none ∧ t = raiseFault code x := by
  obtain ⟨-, -, rfl⟩ | ⟨-, rfl⟩ | ⟨-, rfl⟩ := runUop_raised_cases out
  · exact ⟨_, _, by decide, rfl⟩
  · refine ⟨_, _, ?_, rfl⟩
    unfold invalidHallCode
    split <;> decide
  · exact ⟨_, _, by decide, rfl⟩

/-- It leaves Error and a latched fault. -/
theorem runUop_raised_status {u : Uop} {s t : State} (out : runUop u s = .raised t) :
    t.ctl.status.opstate = .error ∧ t.ctl.status.faultLatched = true := by
  obtain ⟨code, x, -, rfl⟩ := runUop_raised out
  rw [(raiseFault_enters code x).status]
  exact ⟨rfl, rfl⟩

/-! ## The common sequence -/

/-- What a cycle does before PROTECT (44_state_machine.md R291): in Idle it warms up until that is done. -/
def beforeProtect (s : State) : State :=
  let converted := uopConvert (uopSample s)
  uopPark (uopClarksel
    (if s.ctl.status.opstate = .idle ∧ s.ctl.status.warmupDone = false then uopWarmup converted else converted))

/-- The common sequence ends as its PROTECT does (44_state_machine.md R291). -/
theorem runSeq_commonSeq (s : State) : runSeq (commonSeq s) s = uopProtect (beforeProtect s) := by
  have last (t : State) : runSeq [.protect] t = uopProtect t := by
    cases out : uopProtect t with
    | raised x => exact runSeq_of_raised (u := .protect) out
    | done x => exact (runSeq_of_done (u := .protect) out (by simp)).trans (runSeq_nil x)
  unfold commonSeq beforeProtect
  split <;> exact last _

/-- What the common sequence leaves alone: everything but the registers it writes (44_state_machine.md R291). -/
structure CommonFrame (s t : State) : Prop where
  status : t.ctl.status =
    { s.ctl.status with
      hwBrk := t.ctl.status.hwBrk, warmupDone := t.ctl.status.warmupDone, clarkVar := t.ctl.status.clarkVar }
  ctl : t.ctl =
    { s.ctl with
      status := t.ctl.status, violCnt := t.ctl.violCnt, fraw := t.ctl.fraw, hallRaw := t.ctl.hallRaw
      probe := t.ctl.probe }
  pipe : t.pipe =
    { s.pipe with
      raw := t.pipe.raw, phys := t.pipe.phys, warmupCnt := t.pipe.warmupCnt, wsum := t.pipe.wsum
      offset := { t.pipe.offset with vbus := s.pipe.offset.vbus } }
  foc : t.foc =
    { s.foc with
      iAlpha := t.foc.iAlpha, iBeta := t.foc.iBeta, iD := t.foc.iD, iQ := t.foc.iQ, idReq := t.foc.idReq
      iqReq := t.foc.iqReq }
  est : t.est = s.est
  mot : t.mot = s.mot
  com : t.com = s.com
  cyc : t.cyc = s.cyc

theorem CommonFrame.refl (s : State) : CommonFrame s s := ⟨rfl, rfl, rfl, rfl, rfl, rfl, rfl, rfl⟩

theorem CommonFrame.trans {s t u : State} (h : CommonFrame s t) (g : CommonFrame t u) : CommonFrame s u where
  status := g.status.trans (congrArg (fun x : Status =>
    { x with hwBrk := u.ctl.status.hwBrk, warmupDone := u.ctl.status.warmupDone, clarkVar := u.ctl.status.clarkVar })
    h.status)
  ctl := g.ctl.trans (congrArg (fun x : Ctl =>
    { x with
      status := u.ctl.status, violCnt := u.ctl.violCnt, fraw := u.ctl.fraw, hallRaw := u.ctl.hallRaw
      probe := u.ctl.probe })
    h.ctl)
  pipe := g.pipe.trans (congrArg (fun x : Pipe =>
    { x with
      raw := u.pipe.raw, phys := u.pipe.phys, warmupCnt := u.pipe.warmupCnt, wsum := u.pipe.wsum
      offset := { u.pipe.offset with vbus := x.offset.vbus } })
    h.pipe)
  foc := g.foc.trans (congrArg (fun x : Foc =>
    { x with
      iAlpha := u.foc.iAlpha, iBeta := u.foc.iBeta, iD := u.foc.iD, iQ := u.foc.iQ, idReq := u.foc.idReq
      iqReq := u.foc.iqReq })
    h.foc)
  est := g.est.trans h.est
  mot := g.mot.trans h.mot
  com := g.com.trans h.com
  cyc := g.cyc.trans h.cyc

/-- WARMUP keeps to the common sequence's frame (40_signal_pipeline.md R163). -/
theorem commonFrame_uopWarmup (s : State) : CommonFrame s (uopWarmup s) := by
  unfold uopWarmup
  split <;> exact ⟨rfl, rfl, rfl, rfl, rfl, rfl, rfl, rfl⟩

/-- CLARKSEL writes its choice, and every variant ends by writing the stationary-frame current (40_signal_pipeline.md
R164). -/
theorem uopClarksel_eq (s : State) :
    ∃ v alpha beta, uopClarksel s = setIab alpha beta (s.onStatus fun t => { t with clarkVar := v }) :=
  ⟨clarkChoice s.foc.ccr s.ctl.clarkSat, uopClark_eq_setIab _ _⟩

/-- So CLARKSEL keeps to the frame. -/
theorem commonFrame_uopClarksel (s : State) : CommonFrame s (uopClarksel s) := by
  obtain ⟨v, alpha, beta, current⟩ := uopClarksel_eq s
  rw [current]
  exact ⟨rfl, rfl, rfl, rfl, rfl, rfl, rfl, rfl⟩

/-- What a cycle does before PROTECT keeps to it. -/
theorem commonFrame_beforeProtect (s : State) : CommonFrame s (beforeProtect s) := by
  have converted : CommonFrame s (uopConvert (uopSample s)) := ⟨rfl, rfl, rfl, rfl, rfl, rfl, rfl, rfl⟩
  have parked (t : State) : CommonFrame t (uopPark t) := ⟨rfl, rfl, rfl, rfl, rfl, rfl, rfl, rfl⟩
  unfold beforeProtect
  dsimp only
  split
  · exact ((converted.trans (commonFrame_uopWarmup _)).trans (commonFrame_uopClarksel _)).trans (parked _)
  · exact (converted.trans (commonFrame_uopClarksel _)).trans (parked _)

/-- So does a PROTECT that raises no fault (41_protection.md R201). -/
theorem commonFrame_uopProtect {s t : State} (out : uopProtect s = .done t) : CommonFrame s t := by
  by_cases viol : s.violation = true
  · by_cases trips : Trips s
    · rw [uopProtect_of_trips viol trips] at out
      cases out
    · rw [uopProtect_of_not_trips viol trips] at out
      cases out
      exact ⟨rfl, rfl, rfl, rfl, rfl, rfl, rfl, rfl⟩
  · rw [uopProtect_of_not_violation viol] at out
    cases out
    exact ⟨rfl, rfl, rfl, rfl, rfl, rfl, rfl, rfl⟩

/-- A common sequence without a fault keeps to its frame. -/
theorem commonFrame_of_done {s m : State} (out : uopProtect (beforeProtect s) = .done m) : CommonFrame s m :=
  (commonFrame_beforeProtect s).trans (commonFrame_uopProtect out)

/-- The common sequence changes neither the state nor the sub-phase (44_state_machine.md R291). -/
theorem CommonFrame.opstate {s t : State} (h : CommonFrame s t) : t.ctl.status.opstate = s.ctl.status.opstate := by
  rw [h.status]

theorem CommonFrame.seq {s t : State} (h : CommonFrame s t) : t.seq = s.seq := by
  rw [State.seq, State.seq, h.status]

/-! ## The cycle -/

/-- A cycle whose PROTECT trips ends there (44_state_machine.md R293). -/
theorem fastCycle_of_trip {s t : State} {us : List Uop} (selected : s.seq = some us)
    (out : uopProtect (beforeProtect s) = .raised t) : fastCycle s = some t := by
  simp only [fastCycle, stateAction_of_seq selected, runSeq_commonSeq, out]

/-- Any other cycle runs the sequence its state selects (44_state_machine.md R292). -/
theorem fastCycle_of_quiet {s m : State} {us : List Uop} (selected : s.seq = some us)
    (out : uopProtect (beforeProtect s) = .done m) : fastCycle s = some (runSeq us m).state := by
  have still : m.seq = some us := (commonFrame_of_done out).seq.trans selected
  simp only [fastCycle, stateAction_of_seq selected, runSeq_commonSeq, out, stateAction_of_seq still]

/-- The sequence that an executing state selects (44_state_machine.md R292). -/
theorem State.seq_of_executing {s : State} (executes : executing s.ctl.status.opstate s.ctl.status.subphase = true) :
    ∃ us, s.seq = some us :=
  stateSeq_of_executing _ _ executes

/-- The two ways a cycle ends. -/
theorem fastCycle_cases {s t : State} (cycle : fastCycle s = some t) :
    uopProtect (beforeProtect s) = .raised t ∨
      ∃ us m, s.seq = some us ∧ uopProtect (beforeProtect s) = .done m ∧ t = (runSeq us m).state := by
  cases selected : s.seq with
  | none => rw [fastCycle_of_no_seq selected] at cycle; cases cycle
  | some us =>
    cases out : uopProtect (beforeProtect s) with
    | raised x =>
      rw [fastCycle_of_trip selected out] at cycle
      cases cycle
      exact .inl rfl
    | done m =>
      rw [fastCycle_of_quiet selected out] at cycle
      cases cycle
      exact .inr ⟨us, m, rfl, rfl, rfl⟩

end Sys2Proof.Machine
end

section
/-! PROOFS. The invariant of a run of transactions: a cycle keeps its control part, every transaction keeps the whole of it
and completes, so every program of transactions runs to its end. -/

namespace Sys2Proof.Machine

/-! ## A cycle keeps the control part legal -/

/-- The control part is legal, outside Error. -/
def LegalOutsideError (s : State) : Prop := s.control.Legal ∧ s.ctl.status.opstate ≠ .error

/-- The control part is legal, in Error. -/
def LegalInError (s : State) : Prop := s.control.Legal ∧ s.ctl.status.opstate = .error

/-- Outside Error a micro-operation but BREAK ends outside Error, or raises into it; both ways legal. -/
theorem legalOutsideError_runUop {u : Uop} {s : State} (legal : LegalOutsideError s) (notBreak : u ≠ .brk) :
    (∃ t, runUop u s = .done t ∧ LegalOutsideError t) ∨ (∃ t, runUop u s = .raised t ∧ LegalInError t) := by
  obtain ⟨t, out, h⟩ | ⟨t, out, h⟩ := legal_uop legal.1 legal.2 notBreak
  · exact .inl ⟨t, out, h⟩
  · exact .inr ⟨t, out, h, (runUop_raised_status out).1⟩

/-- Outside Error a sequence without BREAK ends outside Error, or raises into it; both ways legal. -/
theorem legalOutsideError_runSeq {us : List Uop} {s : State} (noBreak : ∀ u, u ∈ us ∨ u = .outoff → u ≠ .brk)
    (legal : LegalOutsideError s) :
    (∃ t, runSeq us s = .done t ∧ LegalOutsideError t) ∨ (∃ t, runSeq us s = .raised t ∧ LegalInError t) := by
  refine runSeq_rule us s (fun u x y mem hx out => ?_) (fun u x y mem hx out => ?_) legal <;>
    obtain ⟨z, outcome, hz⟩ | ⟨z, outcome, hz⟩ := legalOutsideError_runUop hx (noBreak u mem) <;>
    rw [out] at outcome <;> cases outcome <;> exact hz

/-- PROTECT ends legally, in the state it began in or by a fault. -/
theorem legalOutsideError_commonSeq {s : State} (legal : LegalOutsideError s) :
    (∃ t, uopProtect (beforeProtect s) = .done t ∧ LegalOutsideError t) ∨
      (∃ t, uopProtect (beforeProtect s) = .raised t ∧ LegalInError t) := by
  rw [← runSeq_commonSeq]
  exact legalOutsideError_runSeq (fun u mem => (commonSeq_uops s u mem).2) legal

/-- A cycle that begins outside Error ends there or in Error, both ways legal. -/
theorem legal_fastCycle_outsideError {s t : State} (legal : LegalOutsideError s) (cycle : fastCycle s = some t) :
    t.control.Legal := by
  obtain trip | ⟨us, m, selected, quiet, rfl⟩ := fastCycle_cases cycle <;>
    obtain ⟨x, out, hx⟩ | ⟨x, out, hx⟩ := legalOutsideError_commonSeq legal
  · rw [trip] at out; cases out
  · rw [trip] at out; cases out; exact hx.1
  · rw [quiet] at out; cases out
    obtain ⟨y, out, hy⟩ | ⟨y, out, hy⟩ := legalOutsideError_runSeq (stateSeq_no_break _ _ us selected legal.2) hx <;>
      rw [out] <;> exact hy.1
  · rw [quiet] at out; cases out

/-- In Error the micro-operations of the common sequence and BREAK raise nothing and stay in Error, legal. -/
theorem legalInError_runUop {u : Uop} {s : State} (legal : LegalInError s) (common : commonUop u = true) :
    ∃ t, runUop u s = .done t ∧ LegalInError t :=
  legal_error legal.1 legal.2 common

/-- So does a sequence of them. -/
theorem legalInError_runSeq {us : List Uop} {s : State} (common : ∀ u, u ∈ us ∨ u = .outoff → commonUop u = true)
    (legal : LegalInError s) : ∃ t, runSeq us s = .done t ∧ LegalInError t := by
  have rule := runSeq_rule (P := LegalInError) (R := fun _ => False) us s (fun u x y mem hx out => ?done)
    (fun u x y mem hx out => ?raised) legal
  case done | raised =>
    obtain ⟨z, outcome, hz⟩ := legalInError_runUop hx (common u mem)
    rw [out] at outcome
    cases outcome <;> exact hz
  exact rule.resolve_right fun ⟨_, _, never⟩ => never

/-- A cycle that begins in Error runs to its end in Error, legal (44_state_machine.md R300). -/
theorem legal_fastCycle_inError {s : State} (legal : LegalInError s) :
    ∃ m, uopProtect (beforeProtect s) = .done m ∧ LegalInError m ∧ fastCycle s = some (softwareBreak m) ∧
      LegalInError (softwareBreak m) := by
  obtain ⟨m, quiet, hm⟩ := legalInError_runSeq (fun u mem => (commonSeq_uops s u mem).1) legal
  rw [runSeq_commonSeq] at quiet
  obtain ⟨t, out, ht⟩ := legalInError_runUop (u := .brk) hm rfl
  cases out
  have selected : s.seq = some [.brk] := by rw [State.seq, legal.2]; rfl
  exact ⟨m, quiet, hm, fastCycle_of_quiet selected quiet, ht⟩

/-- A cycle keeps the control part legal. -/
theorem legal_fastCycle {s t : State} (legal : s.control.Legal) (cycle : fastCycle s = some t) : t.control.Legal := by
  by_cases inError : s.ctl.status.opstate = .error
  · obtain ⟨m, -, -, ends, hm⟩ := legal_fastCycle_inError ⟨legal, inError⟩
    rw [cycle] at ends
    cases ends
    exact hm.1
  · exact legal_fastCycle_outsideError ⟨legal, inError⟩ cycle

/-! ## Every transaction keeps the invariant -/

/-- The return from Error keeps the control part legal (60_exceptions.md R412). -/
theorem legal_leaveError {s : State} (h : s.control.Legal) : (leaveError s).control.Legal := by
  rw [leaveError_control]
  split
  next inError =>
    exact {
      executes := rfl
      latchedIffError := by simp
      codeIffLatched := by simp
      breakIffError := by simp
      errorIsOff := nofun
      violBelowTrip := fun _ => Nat.zero_lt_succ 2
      phasesLegal := h.phasesLegal
      warmupBound := h.warmupBound
      warmupDone := h.warmupDone
      warmupSums := h.warmupSums
      lastHallValid := h.lastHallValid
      hallRunHasTable := nofun }
  next => exact h

/-- The invariant depends on no response. -/
theorem State.inv_respond {s : State} (r : Response) : (s.respond r).Inv ↔ s.Inv := by
  simp only [State.inv_iff, respond_control, State.respond_resetSeen, State.respond_cyc]

/-- A state with the records and cycle-local values of another, and a legal control part if the other has one, keeps the
invariant. -/
theorem State.Inv.of_legal {s t : State} (h : s.Inv) (records : RunFixed s t) (cyc : t.cyc = s.cyc)
    (legal : s.control.Legal → t.control.Legal) : t.Inv := by
  obtain ⟨seen, empty, hc⟩ := s.inv_iff.mp h
  exact t.inv_iff.mpr ⟨records.1.trans seen, cyc.trans empty, legal hc⟩

/-- The return from Error keeps the invariant. -/
theorem inv_leaveError {s : State} (h : s.Inv) : (leaveError s).Inv :=
  have ⟨records, cyc⟩ := leaveError_records s
  h.of_legal records cyc legal_leaveError

/-- CLEAR_DIRTY keeps the invariant (46_host_interface.md R377). -/
theorem inv_clearDirtyFlag {s : State} (h : s.Inv) : (clearDirtyFlag s).Inv :=
  h.of_legal ⟨rfl, rfl, rfl⟩ rfl id

/-- The commands of a WR to CMD keep the invariant. -/
theorem inv_runCommands {s : State} (h : s.Inv) (v : Word) : (runCommands v s).Inv := by
  rw [runCommands_cases]
  split
  · exact h
  · exact inv_clearDirtyFlag h
  · exact inv_leaveError h
  · exact inv_clearDirtyFlag (inv_leaveError h)

/-- A host read keeps the invariant (20_memory.md R109). -/
theorem inv_hostRead {s : State} (h : s.Inv) (a : BitVec 12) : (hostRead a s).Inv := by
  obtain ⟨r, -, out⟩ | ⟨-, out⟩ := hostRead_cases a s <;> rw [out] <;> exact (State.inv_respond _).mpr h

/-- A host write keeps the invariant: no control field is an RW register's. -/
theorem inv_hostWrite {s : State} (h : s.Inv) (a : BitVec 12) (v : Word) : (hostWrite a v s).Inv := by
  obtain ⟨r, -, -, out⟩ | ⟨r, -, -, out⟩ | ⟨r, -, -, out⟩ | ⟨-, out⟩ := hostWrite_cases a v s <;> rw [out] <;>
    refine (State.inv_respond _).mpr ?_
  · obtain ⟨control, records, cyc⟩ := r.write_keeps v s
    exact h.of_legal records cyc fun legal => control ▸ legal
  · exact inv_runCommands h v
  · exact h
  · exact h

/-- The state after reset meets the invariant's control part (70_reset_and_hazards.md R450). -/
theorem legal_reset : State.reset.control.Legal where
  executes := rfl
  latchedIffError := by decide
  codeIffLatched := by decide
  breakIffError := by decide
  errorIsOff := nofun
  violBelowTrip := by decide
  phasesLegal := .inl rfl
  warmupBound := by decide
  warmupDone := by decide
  warmupSums := by decide
  lastHallValid := by decide
  hallRunHasTable := nofun

/-- RESET meets the invariant from any state. -/
theorem inv_resetBlock (s : State) : (resetBlock s).Inv :=
  (resetBlock s).inv_iff.mpr ⟨rfl, rfl, legal_reset⟩

/-- A cycle that completes keeps the invariant from before its ports are presented to the end of its TICK. -/
theorem inv_endTick {p : Ports} {s t : State} (h : s.Inv) (cycle : fastCycle (presentPorts p s) = some t) :
    (endTick t).Inv := by
  obtain ⟨seen, -, legal⟩ := s.inv_iff.mp h
  obtain ⟨seen', -, -⟩ := fastCycle_records cycle
  exact (endTick t).inv_iff.mpr ⟨seen'.trans seen, rfl, legal_fastCycle (s := presentPorts p s) (t := t) legal cycle⟩

/-- A cycle of an executing state is not refused (44_state_machine.md R301). -/
theorem fastCycle_of_executing {s : State} (executes : executing s.ctl.status.opstate s.ctl.status.subphase = true) :
    ∃ t, fastCycle s = some t := by
  obtain ⟨us, selected⟩ := State.seq_of_executing executes
  cases out : uopProtect (beforeProtect s) with
  | raised t => exact ⟨t, fastCycle_of_trip selected out⟩
  | done m => exact ⟨_, fastCycle_of_quiet selected out⟩

/-- The transactions still to come stay through a host read. -/
theorem hostRead_stream (a : BitVec 12) (s : State) : (hostRead a s).stream = s.stream := by
  obtain ⟨r, -, out⟩ | ⟨-, out⟩ := hostRead_cases a s <;> rw [out] <;> rfl

/-- The commands of a WR to CMD touch none of the run's records. -/
theorem runCommands_records (v : Word) (s : State) : RunFixed s (runCommands v s) := by
  obtain ⟨left, -⟩ := leaveError_records s
  rw [runCommands_cases]
  split
  case h_1 | h_2 => exact ⟨rfl, rfl, rfl⟩
  all_goals exact left

/-- The transactions still to come stay through a host write. -/
theorem hostWrite_stream (a : BitVec 12) (v : Word) (s : State) : (hostWrite a v s).stream = s.stream := by
  obtain ⟨r, -, -, out⟩ | ⟨r, -, -, out⟩ | ⟨r, -, -, out⟩ | ⟨-, out⟩ := hostWrite_cases a v s <;> rw [out]
  · obtain ⟨-, ⟨-, stream, -⟩, -⟩ := r.write_keeps v s
    exact stream
  · obtain ⟨-, stream, -⟩ := runCommands_records v s
    exact stream
  all_goals rfl

/-- From a state of a run a WR completes, keeps the invariant and leaves the stream as it is. -/
theorem exec_wr_of_inv {s : State} (h : s.Inv) (a : BitVec 12) (v : Word) :
    ∃ t, exec (.wr a v) s = .next t ∧ t.Inv ∧ t.stream = s.stream :=
  ⟨_, exec_wr_of_seen h.resetSeen a v, inv_hostWrite h a v, hostWrite_stream a v s⟩

/-- From a state of a run so does every transaction (60_exceptions.md R406). -/
theorem exec_transaction_of_inv {i : Instr} {s : State} (host : isTransaction i = true) (h : s.Inv) :
    ∃ t, exec i s = .next t ∧ t.Inv ∧ t.stream = s.stream := by
  have seen := h.resetSeen
  cases i
  case rd a => exact ⟨_, exec_rd_of_seen seen a, inv_hostRead h a, hostRead_stream a s⟩
  case wr a v => exact exec_wr_of_inv h a v
  case tick hwbrk probe hall ia ib ic vbus =>
    obtain ⟨t, cycle⟩ :=
      fastCycle_of_executing (s := presentPorts ⟨⟨ia, ib, ic, vbus⟩, hall, probe, hwbrk⟩ s) h.executes
    obtain ⟨-, stream, -⟩ := fastCycle_records cycle
    exact ⟨_, exec_tick_of_cycle seen cycle, inv_endTick h cycle, stream⟩
  case reset => exact ⟨_, rfl, inv_resetBlock s, rfl⟩
  case faultReset clr ign => exact exec_faultReset_eq_wr clr ign s ▸ exec_wr_of_inv h _ _
  case clearDirty ign => exact exec_clearDirty_eq_wr ign s ▸ exec_wr_of_inv h _ _
  all_goals cases host

/-! ## Streams of transactions -/

/-- Settles O51: reset's control part is legal, and its stream is empty. -/
theorem resetMeetsInvariant : Obligations.ResetMeetsInvariant :=
  ⟨State.reset.inv_iff.mpr ⟨rfl, rfl, legal_reset⟩, rfl⟩

/-- The invariant does not speak of the stream. -/
theorem State.Inv.withStream {s : State} (h : s.Inv) (ws : List BusWord) : State.Inv { s with stream := ws } :=
  State.inv_iff _ |>.mpr (s.inv_iff.mp h)

/-- Exactly the micro-operations are encoded as a lone id (30_encoding.md R130, R143). -/
theorem transactionsOnly_encode (i : Instr) : transactionsOnly (encode i) = isTransaction i := by
  cases i <;> rfl

/-- A stream of transactions begins with one and goes on with them. -/
theorem transactionsOnly_of_decode {ws rest : List BusWord} {i : Instr} (only : transactionsOnly ws = true)
    (decodes : decode ws = .ok (i, rest)) : isTransaction i = true ∧ transactionsOnly rest = true := by
  obtain ⟨-, rfl⟩ := encodeOfDecode ws rest i decodes
  rw [← transactionsOnly_encode]
  simpa [transactionsOnly, List.all_append] using only

/-- Settles O50: a step runs a transaction or waits, and a transaction keeps the invariant. -/
theorem stepKeepsInvariant : Obligations.StepKeepsInvariant := by
  intro s t h only ends
  cases fetched : fetch s.stream with
  | run i rest =>
    have decodes := (fetch_run_iff _ i rest).mp fetched
    obtain ⟨host, onlyRest⟩ := transactionsOnly_of_decode only decodes
    obtain ⟨x, ran, hx, stream⟩ := exec_transaction_of_inv host (h.withStream rest)
    rw [stepRunsDecodedInstruction s i rest decodes, ran] at ends
    cases ends
    exact ⟨hx, stream ▸ onlyRest⟩
  | wait =>
    simp only [step, fetched] at ends
    cases ends
    exact ⟨h, only⟩
  | refuse r =>
    simp only [step, fetched] at ends
    cases ends

/-- A step of a stream that begins with a well-formed transaction, from a state of a run. -/
theorem step_of_transaction {s : State} {i : Instr} {rest : List BusWord} (h : s.Inv) (host : isTransaction i = true)
    (wf : i.wellFormed = true) (stream : s.stream = encode i ++ rest) :
    ∃ t, step s = .next t ∧ t.Inv ∧ t.stream = rest := by
  have decodes : decode s.stream = .ok (i, rest) := stream ▸ decodeOfEncode i rest wf
  rw [stepRunsDecodedInstruction s i rest decodes]
  exact exec_transaction_of_inv host (h.withStream rest)

/-- A stream of well-formed transactions runs to its end from a state of a run, a step for each. -/
theorem run_of_transactions {is : List Instr} (legal : ∀ i ∈ is, isTransaction i = true ∧ i.wellFormed = true)
    {s : State} (h : s.Inv) (stream : s.stream = is.flatMap encode) :
    ∃ t, Sys2Proof.core.run is.length s = .next t ∧ t.stream = [] ∧ t.Inv := by
  induction is generalizing s with
  | nil => exact ⟨s, rfl, stream, h⟩
  | cons i is ih =>
    obtain ⟨host, wf⟩ := legal i List.mem_cons_self
    obtain ⟨m, first, hm, rest⟩ := step_of_transaction h host wf stream
    obtain ⟨t, runs, ends⟩ := ih (fun j mem => legal j (List.mem_cons_of_mem i mem)) hm rest
    refine ⟨t, ?_, ends⟩
    rw [← runs]
    simp only [List.length_cons, Host.Core.run, show Sys2Proof.core.step = step from rfl, first]

/-- Settles O52: the invariant does not speak of the stream, so the program may be any. -/
theorem everyLegalProgramRuns : Obligations.EveryLegalProgramRuns :=
  fun _ _ h legal => run_of_transactions legal (h.withStream _) rfl

end Sys2Proof.Machine
end

section
/-! PROOFS. The signal pipeline (40_signal_pipeline.md): what SAMPLE latches, the four Clark transforms, PARK, and the sine
table. -/

namespace Sys2Proof.Machine

/-- The free values that a formula takes in the order of its operations, from the sites where the running micro-operation
takes them (log entry 5). -/
def State.nans (s : State) (sites : List Nat) (n : Nat) : BitVec 23 := s.nan (sites.getD n 0)

/-! ## SAMPLE -/

/-- Where a TICK presented ports, they are what SAMPLE latches (46_host_interface.md R372). -/
theorem portsIn_of_some {s : State} {p : Ports} (presented : s.cyc.ports = some p) : s.portsIn = p := by
  simp only [State.portsIn, presented]

/-- SAMPLE changes no register but the four RAW, HALLIO and STATUS. -/
theorem uopFrame_uopSample (s : State) :
    UopFrame [.raw 0, .raw 1, .raw 2, .raw 3, .hallio, .status] s (uopSample s) := by
  refine ⟨fun r other => ?_, rfl, rfl, rfl, rfl⟩
  cases r
  case hallio | status => simp at other
  case raw k => exact absurd (by fin_cases k <;> simp) other
  all_goals rfl

/-- Settles O15: SAMPLE latches the port values it finds, some where no TICK presented any. -/
theorem sampleLatchesPorts : Obligations.SampleLatchesPorts :=
  ⟨fun _ => rfl, fun s => ⟨s.portsIn, uopSample s, fun _ => portsIn_of_some, rfl, rfl, rfl, rfl, rfl, rfl,
    uopFrame_uopSample s⟩⟩

/-! ## The Clark transforms -/

/-- Settles O19: each transform writes its formula's two values and nothing else. -/
theorem clarkTransforms : Obligations.ClarkTransforms :=
  ⟨fun _ => ⟨rfl, rfl, rfl, rfl⟩, fun s =>
    ⟨⟨_, rfl, uopFrame_setIab _ _ s, s.nans [4, 3, 1, 0, 2, 6, 5], rfl, rfl⟩,
      ⟨_, rfl, uopFrame_setIab _ _ s, s.nans [0, 2, 1], rfl, rfl⟩,
      ⟨_, rfl, uopFrame_setIab _ _ s, s.nans [2, 1, 0], rfl, rfl⟩,
      ⟨_, rfl, uopFrame_setIab _ _ s, s.nans [2, 1, 0], rfl, rfl⟩⟩⟩

/-! ## PARK -/

/-- PARK changes no register but I_D and I_Q. -/
theorem uopFrame_uopPark (s : State) : UopFrame [.iD, .iQ] s (uopPark s) := by
  refine ⟨fun r other => ?_, rfl, rfl, rfl, rfl⟩
  cases r
  case iD | iQ => simp at other
  all_goals rfl

/-- Settles O20: PARK writes R169's two formulas over the free values of its sites. -/
theorem parkRotatesCurrent : Obligations.ParkRotatesCurrent :=
  ⟨fun _ => rfl, fun s => ⟨uopPark s, rfl, ⟨s.nans [2, 0, 1, 5, 3, 4], rfl, rfl⟩, uopFrame_uopPark s⟩⟩

/-! ## The sine table -/

/-- The second half of the table is the negated first half (10_state.md R90). -/
theorem sintab_half_revolution :
    ∀ k : Fin 127, sintab (Fin.ofNat 256 (k.val + 129)) = F32.neg (sintab (Fin.ofNat 256 (k.val + 1))) := by
  decide +kernel

/-- The first half of the table is symmetric about its middle (10_state.md R90). -/
theorem sintab_quarter_mirror :
    ∀ k : Fin 127, sintab (Fin.ofNat 256 (127 - k.val)) = sintab (Fin.ofNat 256 (k.val + 1)) := by
  decide +kernel

/-- The first quarter of the table rises strictly (10_state.md R90). -/
theorem sintab_quarter_rises :
    ∀ k : Fin 64, F32.lt (sintab (Fin.ofNat 256 k.val)) (sintab (Fin.ofNat 256 (k.val + 1))) = true := by
  decide +kernel

/-- Settles O22: the table's registers read the table, whose entries are closed words. -/
theorem sineTableSymmetries : Obligations.SineTableSymmetries :=
  ⟨rfl, rfl, rfl, rfl, sintab_half_revolution, sintab_quarter_mirror, sintab_quarter_rises⟩

end Sys2Proof.Machine
end

section
/-! PROOFS. The flux observer and the tracker (42_estimator.md): what FLUX integrates and reports, what TRACK does with and
without an event, and its timeout. -/

namespace Sys2Proof.Machine

/-! ## Frames -/

/-- Two changes one after the other change at most what either may change. -/
theorem RegsFixedBut.trans {ws ws' : List Reg} {s t u : State} (h : RegsFixedBut ws s t) (g : RegsFixedBut ws' t u) :
    RegsFixedBut (ws ++ ws') s u := by
  intro r other
  obtain ⟨inFirst, inSecond⟩ := not_or.mp fun m => other (List.mem_append.mpr m)
  exact (g r inSecond).trans (h r inFirst)

/-- A frame may list more registers than may change. -/
theorem RegsFixedBut.mono {ws ws' : List Reg} {s t : State} (h : RegsFixedBut ws s t) (sub : ws ⊆ ws') :
    RegsFixedBut ws' s t :=
  fun r other => h r fun m => other (sub m)

/-! ## FLUX -/

/-- FLUX changes no register but the integrals, FLUX_BLK and STATUS. -/
theorem regsFixedBut_uopFlux (s : State) : RegsFixedBut [.fluxA, .fluxB, .fluxBlk, .status] s (uopFlux s) := by
  intro r other
  cases r
  case fluxA | fluxB | fluxBlk | status => simp at other
  all_goals rfl

/-- A change of the comparator outside the blanking window (42_estimator.md R222). -/
def FluxCrosses (s : State) : Prop :=
  (uopFlux s).ctl.status.fluxSign ≠ s.ctl.status.fluxSign ∧ 10 ≤ s.est.fluxBlk.toNat

/-- FLUX's own test for it. -/
theorem fluxCrosses_iff (s : State) :
    ((uopFlux s).ctl.status.fluxSign != s.ctl.status.fluxSign &&
      decide (Config.fluxBlank ≤ s.est.fluxBlk.toNat)) = true ↔ FluxCrosses s := by
  rw [Bool.and_eq_true, bne_iff_ne, decide_eq_true_iff]
  rfl

/-- At a crossing FLUX reports an event and opens the blanking window (42_estimator.md R222). -/
theorem uopFlux_of_crosses {s : State} (crosses : FluxCrosses s) :
    let t := uopFlux s
    let ang : Half := if F32.ge t.est.fluxA 0 then 8192 else 40960
    t.est.fluxBlk = 0 ∧
      t.cyc = { s.cyc with fluxEvt := some { ang, fwd := (ang == 8192) == t.ctl.status.fluxSign, src := .flux } } :=
  have crossing := (fluxCrosses_iff s).mpr crosses
  ⟨if_pos crossing, congrArg (fun e => { s.cyc with fluxEvt := e }) (if_pos crossing)⟩

/-- Without a crossing FLUX counts the window on (42_estimator.md R222). -/
theorem uopFlux_of_not_crosses {s : State} (quiet : ¬ FluxCrosses s) :
    (uopFlux s).est.fluxBlk.toNat = min (s.est.fluxBlk.toNat + 1) 255 ∧ (uopFlux s).cyc = s.cyc := by
  have noCrossing := mt (fluxCrosses_iff s).mp quiet
  have counted : (uopFlux s).est.fluxBlk = satInc s.est.fluxBlk := if_neg noCrossing
  exact ⟨counted ▸ satInc_toNat s.est.fluxBlk, congrArg (fun e => { s.cyc with fluxEvt := e }) (if_neg noCrossing)⟩

/-- Settles O25: the formulas over the free values of FLUX's sites, and the two things FLUX does with the window. -/
theorem fluxIntegratesAndCrosses : Obligations.FluxIntegratesAndCrosses := by
  refine ⟨fun rest => rfl, fun s => ⟨uopFlux s, s.nan, rfl, ⟨rfl, rfl⟩, rfl, ?_, regsFixedBut_uopFlux s, rfl, rfl, rfl⟩⟩
  split
  next crosses => exact uopFlux_of_crosses crosses
  next quiet => exact uopFlux_of_not_crosses quiet

/-! ## TRACK -/

/-- TRACK after the cycle's events were taken: the advance, the timeout, and the events are consumed (42_estimator.md
R224, R225). -/
def trackFrom (s : State) : State := dropEvents (trackTimeout (trackAdvance s))

/-- TRACK without an event counts the cycle (42_estimator.md R225). -/
theorem uopTrack_of_none {s : State} (noEvent : s.eventIn = none) :
    uopTrack s = trackFrom (s.onEst fun x => { x with trkCnt := satInc s.est.trkCnt }) := by
  simp only [uopTrack, noEvent]
  rfl

/-- TRACK with an event takes it at the count of this cycle (42_estimator.md R225). -/
theorem uopTrack_of_event {s : State} {e : Evt} (event : s.eventIn = some e) :
    uopTrack s = trackFrom (trackEvent e (satInc s.est.trkCnt) s) := by
  simp only [uopTrack, event]
  rfl

/-- Past the timeout TRACK forces the angle (42_estimator.md R225). -/
theorem trackFrom_of_timeout {s : State} (past : 3000 < s.est.trkCnt.toNat) :
    trackFrom s = dropEvents ((trackAdvance s).onEst fun x =>
      { x with theta := x.lastHallCenter, trkCnt := x.trkRestart }) :=
  congrArg dropEvents (if_pos past)

/-- Up to the timeout the angle advances (42_estimator.md R225). -/
theorem trackFrom_of_tracking {s : State} (tracking : ¬ 3000 < s.est.trkCnt.toNat) :
    trackFrom s = dropEvents (trackAdvance s) :=
  congrArg dropEvents (if_neg tracking)

/-- The advance with its error decay, or the timeout (42_estimator.md R225). -/
theorem trackFrom_advances (s : State) :
    let corr := F32.mul (s.nan 8) s.est.trkKerr s.est.trkErr
    let t := trackFrom s
    t.est.trkErr = F32.sub (s.nan 10) s.est.trkErr corr ∧
      if 3000 < s.est.trkCnt.toNat then t.est.theta = s.est.lastHallCenter ∧ t.est.trkCnt = s.est.trkRestart
      else t.est.theta = s.est.theta + toAngleStep (F32.add (s.nan 9) s.est.trkStep corr) ∧
        t.est.trkCnt = s.est.trkCnt := by
  dsimp only
  split
  next past => rw [trackFrom_of_timeout past]; exact ⟨rfl, rfl, rfl⟩
  next tracking => rw [trackFrom_of_tracking tracking]; exact ⟨rfl, rfl, rfl⟩

/-- What the advance and the timeout leave alone beside other registers: the step, the period, the last event and STATUS;
and the events are gone (42_estimator.md R224). -/
theorem trackFrom_keeps (s : State) :
    let t := trackFrom s
    t.est.trkStep = s.est.trkStep ∧ t.est.trkInvper = s.est.trkInvper ∧ t.est.lastEvt = s.est.lastEvt ∧
      t.ctl.status = s.ctl.status ∧ t.cyc.hallEvt = none ∧ t.cyc.fluxEvt = none := by
  unfold trackFrom trackTimeout
  split <;> exact ⟨rfl, rfl, rfl, rfl, rfl, rfl⟩

/-- The advance changes no register but THETA and TRK_ERR. -/
theorem regsFixedBut_trackAdvance (s : State) : RegsFixedBut [.theta, .trkErr] s (trackAdvance s) := by
  intro r other
  cases r
  case theta | trkErr => simp at other
  all_goals rfl

/-- The forced angle and the restarted count are no other register's (42_estimator.md R225). -/
theorem regsFixedBut_trackTimeout (s : State) : RegsFixedBut [.theta, .trkCnt] s (trackTimeout s) := by
  unfold trackTimeout
  split
  · intro r other
    cases r
    case theta | trkCnt => simp at other
    all_goals rfl
  · exact fun _ _ => rfl

/-- The advance and the timeout change no register but THETA, TRK_ERR and TRK_CNT. -/
theorem regsFixedBut_trackFrom (s : State) : RegsFixedBut [.theta, .trkErr, .theta, .trkCnt] s (trackFrom s) :=
  (regsFixedBut_trackAdvance s).trans (regsFixedBut_trackTimeout _)

/-- Counting the cycle changes no register but TRK_CNT. -/
theorem regsFixedBut_trkCnt (n : Word) (s : State) :
    RegsFixedBut [.trkCnt] s (s.onEst fun x => { x with trkCnt := n }) := by
  intro r other
  cases r
  case trkCnt => simp at other
  all_goals rfl

/-- The event part changes no register but TRACK's own, LAST_EVT and STATUS. -/
theorem regsFixedBut_trackEvent (e : Evt) (cnt : Word) (s : State) :
    RegsFixedBut [.trkCnt, .trkStep, .trkInvper, .trkErr, .lastEvt, .status] s (trackEvent e cnt s) := by
  intro r other
  cases r
  case trkCnt | trkStep | trkInvper | trkErr | lastEvt | status => simp at other
  all_goals rfl

/-- TRACK changes no register but its own, LAST_EVT, THETA and STATUS. -/
theorem regsFixedBut_uopTrack (s : State) :
    RegsFixedBut [.trkCnt, .trkStep, .trkInvper, .trkErr, .lastEvt, .theta, .status] s (uopTrack s) := by
  cases event : s.eventIn with
  | none =>
    rw [uopTrack_of_none event]
    exact ((regsFixedBut_trkCnt _ s).trans (regsFixedBut_trackFrom _)).mono (by decide)
  | some e =>
    rw [uopTrack_of_event event]
    exact ((regsFixedBut_trackEvent e _ s).trans (regsFixedBut_trackFrom _)).mono (by decide)

/-- The step and period filters of the event part, which run from the second event on (42_estimator.md R225). -/
theorem trackEvent_filters (e : Evt) (s : State) :
    let t := trackEvent e (satInc s.est.trkCnt) s
    let n := F32.ofNat (min (s.est.trkCnt.toNat + 1) (2 ^ 32 - 1))
    let a := s.est.trkAlpha
    if s.ctl.status.evtSeen then
      t.est.trkStep = F32.add (s.nan 3) s.est.trkStep (F32.mul (s.nan 2) a
        (F32.sub (s.nan 1) (F32.div (s.nan 0) (F32.ofInt (eventDelta e s.est.lastEvt)) n) s.est.trkStep)) ∧
      t.est.trkInvper = F32.add (s.nan 7) s.est.trkInvper (F32.mul (s.nan 6) a
        (F32.sub (s.nan 5) (F32.div (s.nan 4) 0x3F800000 n) s.est.trkInvper))
    else t.est.trkStep = s.est.trkStep ∧ t.est.trkInvper = s.est.trkInvper := by
  have count : min (s.est.trkCnt.toNat + 1) (2 ^ 32 - 1) = (satInc s.est.trkCnt).toNat :=
    (satInc_toNat s.est.trkCnt).symm
  dsimp only
  rw [count]
  split
  next seen => exact ⟨if_pos seen, if_pos seen⟩
  next unseen => exact ⟨if_neg unseen, if_neg unseen⟩

/-- The event TRACK takes: a Hall event, or a flux event where there is no Hall event (42_estimator.md R224). -/
theorem eventIn_eq_some {s : State} {e : Evt} (event : s.eventIn = some e) :
    s.cyc.hallEvt = some e ∨ (s.cyc.hallEvt = none ∧ s.cyc.fluxEvt = some e) := by
  unfold State.eventIn at event
  cases hall : s.cyc.hallEvt with
  | none => exact .inr ⟨rfl, by simpa [hall] using event⟩
  | some x => exact .inl (by simpa [hall] using event)

/-- TRACK takes no event where there is none. -/
theorem eventIn_eq_none {s : State} : s.eventIn = none ↔ s.cyc.hallEvt = none ∧ s.cyc.fluxEvt = none := by
  unfold State.eventIn
  cases s.cyc.hallEvt <;> simp

/-- Settles O26: what the event part leaves for the advance, over the free values of TRACK's sites. -/
theorem trackFollowsEvents : Obligations.TrackFollowsEvents := by
  refine ⟨fun rest => rfl, fun s => ?_⟩
  have frame := regsFixedBut_uopTrack s
  have records := uopTrack_records s
  let q := s.nans [3, 2, 1, 0, 7, 6, 5, 4, 8, 10, 9]
  cases event : s.eventIn with
  | none =>
    let counted := s.onEst fun x => { x with trkCnt := satInc s.est.trkCnt }
    obtain ⟨step, period, last, status, -⟩ := trackFrom_keeps counted
    have advances := trackFrom_advances counted
    rw [uopTrack_of_none event] at frame records
    obtain ⟨noHall, noFlux⟩ := eventIn_eq_none.mp event
    refine ⟨_, q, counted.est.trkCnt, s.est.trkErr, congrArg Host.Outcome.next (uopTrack_of_none event), ?_, ?_, frame,
      records⟩
    · simp only [noHall, noFlux]
      exact ⟨satInc_toNat s.est.trkCnt, trivial, step, period, last, status⟩
    · rw [step]
      exact advances
  | some e =>
    let taken := trackEvent e (satInc s.est.trkCnt) s
    obtain ⟨step, period, last, status, -⟩ := trackFrom_keeps taken
    have advances := trackFrom_advances taken
    have filters := trackEvent_filters e s
    rw [uopTrack_of_event event] at frame records
    refine ⟨_, q, taken.est.trkCnt, taken.est.trkErr, congrArg Host.Outcome.next (uopTrack_of_event event), ?_, ?_, frame,
      records⟩
    · obtain hall | ⟨noHall, flux⟩ := eventIn_eq_some event
      · simp only [hall]
        rw [step, period]
        exact ⟨rfl, rfl, filters, last, status⟩
      · simp only [noHall, flux]
        rw [step, period]
        exact ⟨rfl, rfl, filters, last, status⟩
    · rw [step]
      exact advances

/-! ## The timeout scenario -/

/-- The advance and the timeout keep the forced angle and the restart count (42_estimator.md R226). -/
theorem trackFrom_timeoutValues (s : State) :
    (trackFrom s).est.lastHallCenter = s.est.lastHallCenter ∧ (trackFrom s).est.trkRestart = s.est.trkRestart := by
  unfold trackFrom trackTimeout
  split <;> exact ⟨rfl, rfl⟩

/-- `s` is what `n` executions of TRACK without an event left of `s₀`, up to the timeout. -/
structure Coasts (s₀ s : State) (n : Nat) : Prop where
  noEvent : s.eventIn = none
  count : s.est.trkCnt.toNat = n
  center : s.est.lastHallCenter = s₀.est.lastHallCenter
  restart : s.est.trkRestart = s₀.est.trkRestart

/-- The count that TRACK without an event leaves for the timeout. -/
theorem Coasts.counted {s₀ s : State} {n : Nat} (h : Coasts s₀ s n) (below : n ≤ 3000) :
    (satInc s.est.trkCnt).toNat = n + 1 := by
  rw [satInc_toNat, h.count]
  omega

/-- Up to the timeout one more execution counts on, and advances THETA (42_estimator.md R226). -/
theorem Coasts.step {s₀ s : State} {n : Nat} (h : Coasts s₀ s n) (below : n < 3000) :
    Coasts s₀ (uopTrack s) (n + 1) ∧ (uopTrack s).est.theta =
      s.est.theta + toAngleStep (F32.add (s.nan 9) s.est.trkStep (F32.mul (s.nan 8) s.est.trkKerr s.est.trkErr)) := by
  let counted := s.onEst fun x => { x with trkCnt := satInc s.est.trkCnt }
  have count : counted.est.trkCnt.toNat = n + 1 := h.counted below.le
  obtain ⟨-, -, -, -, noHall, noFlux⟩ := trackFrom_keeps counted
  obtain ⟨center, restart⟩ := trackFrom_timeoutValues counted
  obtain ⟨-, advances⟩ := trackFrom_advances counted
  rw [if_neg (by omega)] at advances
  obtain ⟨theta, kept⟩ := advances
  rw [uopTrack_of_none h.noEvent]
  exact ⟨⟨eventIn_eq_none.mpr ⟨noHall, noFlux⟩, kept ▸ count, center.trans h.center, restart.trans h.restart⟩, theta⟩

/-- The execution after 3000 forces THETA and restarts the count (42_estimator.md R226). -/
theorem Coasts.timeout {s₀ s : State} (h : Coasts s₀ s 3000) :
    (uopTrack s).est.theta = s₀.est.lastHallCenter ∧ (uopTrack s).est.trkCnt = s₀.est.trkRestart := by
  let counted := s.onEst fun x => { x with trkCnt := satInc s.est.trkCnt }
  have count : counted.est.trkCnt.toNat = 3001 := h.counted le_rfl
  obtain ⟨-, forced⟩ := trackFrom_advances counted
  rw [if_pos (by omega)] at forced
  rw [uopTrack_of_none h.noEvent, ← h.center, ← h.restart]
  exact forced

/-- Settles O27, by induction on the executions up to the timeout. -/
theorem trackTimeoutAfter3001 : Obligations.TrackTimeoutAfter3001 := by
  intro run runs zero noHall noFlux
  have next (n : Nat) : run (n + 1) = uopTrack (run n) := (Host.Outcome.next.inj (runs n)).symm
  have coasts : ∀ n, n ≤ 3000 → Coasts (run 0) (run n) n := by
    intro n
    induction n with
    | zero => exact fun _ => ⟨eventIn_eq_none.mpr ⟨noHall, noFlux⟩, congrArg BitVec.toNat zero, rfl, rfl⟩
    | succ n ih => exact fun below => next n ▸ ((ih (by omega)).step below).1
  refine ⟨fun n below => (coasts n below).count, fun n below => ?_, ?_⟩
  · rw [next n, ((coasts n below.le).step below).2]
    exact ⟨_, _, rfl⟩
  · rw [next 3000]
    exact (coasts 3000 le_rfl).timeout

end Sys2Proof.Machine
end

section
/-! PROOFS. The current controller and the modulator (43_controller.md): the control law and its bounds, the inverse
transforms, and the compare values. -/

namespace Sys2Proof.Machine

/-! ## PI -/

/-- Below the divisor PI only counts (43_controller.md R260). -/
theorem uopPi_of_counting {s : State} (below : s.foc.piCnt.toNat + 1 < max 1 s.ctl.piDiv.toNat) :
    uopPi s = s.onFoc fun f => { f with piCnt := BitVec.ofNat 8 (s.foc.piCnt.toNat + 1) } :=
  if_neg (Nat.not_le.mpr below)

/-- At the divisor PI runs the law and begins to count anew (43_controller.md R260, R261). -/
theorem uopPi_of_due {s : State} (due : max 1 s.ctl.piDiv.toNat ≤ s.foc.piCnt.toNat + 1) :
    uopPi s = ((piLaw s).onFoc fun f => { f with piCnt := 0 }).drawn :=
  if_pos due

/-- A count changes no register but PI_CNT. -/
theorem uopFrame_piCnt (n : Byte) (s : State) : UopFrame [.piCnt] s (s.onFoc fun f => { f with piCnt := n }) := by
  refine ⟨fun r other => ?_, rfl, rfl, rfl, rfl⟩
  cases r
  case piCnt => simp at other
  all_goals rfl

/-- New integrators and outputs, whatever their values, change no other register (43_controller.md R261). -/
theorem uopFrame_piValues (intD vd intQ vq : Word) (s : State) :
    UopFrame [.intD, .vd, .intQ, .vq] s
      (s.onFoc fun f => { f with intD := intD, vd := vd, intQ := intQ, vq := vq }) := by
  refine ⟨fun r other => ?_, rfl, rfl, rfl, rfl⟩
  cases r
  case intD | vd | intQ | vq => simp at other
  all_goals rfl

/-- The law changes no register but the integrators and the outputs (43_controller.md R261). -/
theorem uopFrame_piLaw (s : State) : UopFrame [.intD, .vd, .intQ, .vq] s (piLaw s) :=
  uopFrame_piValues _ _ _ _ s

/-- PI changes no register but its count, the integrators and the outputs. -/
theorem uopFrame_uopPi (s : State) : UopFrame [.piCnt, .intD, .vd, .intQ, .vq] s (uopPi s) := by
  by_cases due : max 1 s.ctl.piDiv.toNat ≤ s.foc.piCnt.toNat + 1
  · rw [uopPi_of_due due]
    exact ((uopFrame_piLaw s).trans (uopFrame_piCnt 0 (piLaw s))).mono (by decide)
  · rw [uopPi_of_counting (Nat.not_le.mp due)]
    exact (uopFrame_piCnt _ s).mono (by decide)

/-- Settles O28: below the divisor the count does not wrap, and at it the law is R261's formulas over the free values of
PI's sites. -/
theorem piRunsEveryNth : Obligations.PiRunsEveryNth := by
  refine ⟨fun rest => rfl, fun s below => ?counting, fun s due => ?due⟩
  case counting =>
    refine ⟨_, congrArg Host.Outcome.next (uopPi_of_counting below), ?_, uopFrame_piCnt _ s⟩
    exact Nat.mod_eq_of_lt (by have := s.ctl.piDiv.isLt; omega)
  case due =>
    have frame := uopFrame_uopPi s
    rw [uopPi_of_due due] at frame
    exact ⟨_, s.nans [0, 2, 1, 4, 3, 5, 7, 6, 9, 8], congrArg Host.Outcome.next (uopPi_of_due due), rfl, ⟨rfl, rfl⟩,
      ⟨rfl, rfl⟩, frame⟩

/-! ## Anti-windup -/

/-- Negation keeps the bits below the sign (00_scope.md R17). -/
theorem F32.neg_magnitude (a : Word) : (F32.neg a).toNat % 2 ^ 31 = a.toNat % 2 ^ 31 := by
  have low : (F32.neg a).setWidth 31 = a.setWidth 31 := by
    have flip : F32.neg a = a ^^^ BitVec.twoPow 32 31 := rfl
    ext i hi
    rw [flip, BitVec.getElem_setWidth, BitVec.getLsbD_xor, BitVec.getLsbD_twoPow]
    simp [hi.ne']
  simpa using congrArg BitVec.toNat low

/-- Negation flips the sign (00_scope.md R17). -/
theorem F32.sign_neg (a : Word) : F32.sign (F32.neg a) = !F32.sign a := by
  simp [F32.sign, F32.neg]

/-- Negation keeps the fields below the sign. -/
theorem F32.neg_fields (a : Word) : F32.expo (F32.neg a) = F32.expo a ∧ F32.frac (F32.neg a) = F32.frac a := by
  have magnitude := F32.neg_magnitude a
  unfold F32.expo F32.frac
  omega

/-- The negation of a NaN is a NaN, and of no other pattern. -/
theorem F32.isNaN_neg (a : Word) : F32.isNaN (F32.neg a) = F32.isNaN a := by
  obtain ⟨expo, frac⟩ := F32.neg_fields a
  rw [F32.isNaN, F32.isNaN, expo, frac]

/-- Negation reverses the order. -/
theorem F32.orderKey_neg (a : Word) : F32.orderKey (F32.neg a) = -F32.orderKey a := by
  rw [F32.orderKey, F32.orderKey, F32.neg_magnitude, F32.sign_neg]
  cases F32.sign a <;> simp

/-- `a <= b` of patterns that are no NaN is the order of their keys (00_scope.md R18). -/
theorem F32.le_iff (a b : Word) :
    F32.le a b = true ↔ F32.isNaN a = false ∧ F32.isNaN b = false ∧ F32.orderKey a ≤ F32.orderKey b := by
  simp [F32.le, and_assoc]

/-- The three outcomes of a clamp (00_scope.md R18). -/
theorem F32.clampf_cases (v lo hi : Word) :
    F32.clampf v lo hi = hi ∨ F32.clampf v lo hi = lo ∨
      (F32.clampf v lo hi = v ∧ F32.lt hi v = false ∧ F32.lt v lo = false) := by
  by_cases above : F32.lt hi v = true
  · exact .inl (if_pos above)
  · by_cases below : F32.lt v lo = true
    · exact .inr (.inl ((if_neg above).trans (if_pos below)))
    · exact .inr (.inr ⟨(if_neg above).trans (if_neg below), eq_false_of_ne_true above, eq_false_of_ne_true below⟩)

/-- A number clamped to a symmetric range lies in it (00_scope.md R18). -/
theorem F32.clampf_bounds {v vmax : Word} (positive : F32.ge vmax 0 = true)
    (number : F32.isNaN (F32.clampf v (F32.neg vmax) vmax) = false) :
    F32.le (F32.neg vmax) (F32.clampf v (F32.neg vmax) vmax) = true ∧
      F32.le (F32.clampf v (F32.neg vmax) vmax) vmax = true := by
  obtain ⟨-, upper, sign⟩ := (F32.le_iff 0 vmax).mp positive
  have lower := (F32.isNaN_neg vmax).trans upper
  have ordered : F32.le (F32.neg vmax) vmax = true := by
    rw [F32.le_iff, F32.orderKey_neg]
    exact ⟨lower, upper, neg_le_self sign⟩
  obtain out | out | ⟨out, above, below⟩ := F32.clampf_cases v (F32.neg vmax) vmax <;> rw [out] at number ⊢
  · exact ⟨ordered, F32.le_refl_of_not_nan upper⟩
  · exact ⟨F32.le_refl_of_not_nan lower, ordered⟩
  · exact ⟨F32.le_of_not_lt number lower below, F32.le_of_not_lt upper number above⟩

/-- Settles O29: integrators and outputs are clamped to the bound. -/
theorem piAntiWindup : Obligations.PiAntiWindup := by
  intro s t ends due
  rw [show exec .pi s = .next (uopPi s) from rfl, uopPi_of_due due] at ends
  cases ends
  exact ⟨fun positive => ⟨F32.clampf_bounds positive, F32.clampf_bounds positive⟩,
    fun positive => ⟨F32.clampf_bounds positive, F32.clampf_bounds positive⟩⟩

/-! ## The inverse transforms -/

/-- INVPARK changes no register but V_ALPHA and V_BETA. -/
theorem uopFrame_uopInvpark (s : State) : UopFrame [.vAlpha, .vBeta] s (uopInvpark s) := by
  refine ⟨fun r other => ?_, rfl, rfl, rfl, rfl⟩
  cases r
  case vAlpha | vBeta => simp at other
  all_goals rfl

/-- INVCLARK changes no register but the three VPH. -/
theorem uopFrame_uopInvclark (s : State) : UopFrame [.vph 0, .vph 1, .vph 2] s (uopInvclark s) := by
  refine ⟨fun r other => ?_, rfl, rfl, rfl, rfl⟩
  cases r
  case vph k => exact absurd (by fin_cases k <;> simp) other
  all_goals rfl

/-- Settles O30: each writes its formulas over the free values of its sites and nothing else. -/
theorem inverseTransforms : Obligations.InverseTransforms :=
  ⟨fun _ => ⟨rfl, rfl⟩, fun s =>
    ⟨⟨uopInvpark s, s.nans [2, 0, 1, 5, 3, 4], rfl, rfl, rfl, uopFrame_uopInvpark s⟩,
      ⟨uopInvclark s, s.nans [2, 0, 1, 5, 3, 4], rfl, rfl, rfl, rfl, uopFrame_uopInvclark s⟩⟩⟩

/-! ## SVPWM -/

/-- SVPWM changes no register (43_controller.md R264). -/
theorem regsFixedBut_uopSvpwm (s : State) : RegsFixedBut [] s (uopSvpwm s) := by
  intro r _
  cases r <;> rfl

/-- SVPWM's compare values are values of the cycle (43_controller.md R264). -/
theorem uopSvpwm_cyc (s : State) : (uopSvpwm s).cyc = { s.cyc with ccrNext := some (svpwmDuties s) } := rfl

/-- Settles O31: SVPWM's compare values are R264's formula over the free values of its sites. -/
theorem svpwmCentersDuties : Obligations.SvpwmCentersDuties := by
  refine ⟨fun _ => rfl, fun s => ⟨uopSvpwm s, s.nan, rfl, ?_, regsFixedBut_uopSvpwm s, rfl, rfl, rfl⟩⟩
  rw [uopSvpwm_cyc]
  unfold svpwmDuties F32.half
  dsimp only

/-! ## The range of the compare values

A positive number that is below another truncates to no more: the integer part is a quotient of the significand at a fixed
binary point. And the binary32 number nearest to an integer below 2^16 is that integer. -/

/-- The value of a pattern's magnitude in units of 2^-150. -/
def F32.scaled (a : Word) : Nat := F32.sig a * 2 ^ max (F32.expo a) 1

/-- A significand with its binary point moved is the quotient of its value by a fixed power of two. -/
theorem F32.pointMoved_eq (m e : Nat) :
    (if 0 ≤ (e : Int) - 150 then m * 2 ^ ((e : Int) - 150).toNat else m / 2 ^ (-((e : Int) - 150)).toNat) =
      m * 2 ^ e / 2 ^ 150 := by
  split
  next left =>
    have shift : ((e : Int) - 150).toNat = e - 150 := by omega
    rw [shift, Nat.mul_div_assoc m (Nat.pow_dvd_pow 2 (by omega)), Nat.pow_div (by omega) (by decide)]
  next right =>
    have shift : (-((e : Int) - 150)).toNat = 150 - e := by omega
    have split : 2 ^ 150 = 2 ^ (150 - e) * 2 ^ e := by rw [← Nat.pow_add]; congr 1; omega
    rw [shift, split, Nat.mul_div_mul_right _ _ (by positivity)]

/-- The integer part of a positive number is its magnitude over 2^150 (00_scope.md R19). -/
theorem F32.trunc_of_positive {a : Word} (positive : F32.sign a = false) :
    F32.trunc a = (F32.scaled a / 2 ^ 150 : Nat) := by
  unfold F32.trunc
  rw [positive]
  exact congrArg Nat.cast (F32.pointMoved_eq (F32.sig a) (max (F32.expo a) 1))

/-- A positive pattern is its exponent field followed by its fraction field. -/
theorem F32.toNat_of_positive {a : Word} (positive : F32.sign a = false) :
    a.toNat = F32.expo a * 2 ^ 23 + F32.frac a ∧ F32.expo a < 256 ∧ F32.frac a < 2 ^ 23 := by
  have top : a.toNat / 2 ^ 31 % 2 = 0 := by
    simpa [F32.sign, BitVec.getLsbD, Nat.testBit_eq_decide_div_mod_eq] using positive
  have bound := a.isLt
  unfold F32.expo F32.frac
  omega

/-- Smaller positive patterns have smaller magnitudes. -/
theorem F32.scaled_mono {a b : Word} (ha : F32.sign a = false) (hb : F32.sign b = false) (h : a.toNat ≤ b.toNat) :
    F32.scaled a ≤ F32.scaled b := by
  obtain ⟨aNat, -, aFrac⟩ := F32.toNat_of_positive ha
  obtain ⟨bNat, -, bFrac⟩ := F32.toNat_of_positive hb
  have step : (max (F32.expo a) 1 = max (F32.expo b) 1 ∧ F32.sig a ≤ F32.sig b) ∨
      (max (F32.expo a) 1 + 1 ≤ max (F32.expo b) 1 ∧ F32.sig a ≤ 2 ^ 24 ∧ 2 ^ 23 ≤ F32.sig b) := by
    unfold F32.sig
    split <;> split <;> omega
  unfold F32.scaled
  obtain ⟨same, sig⟩ | ⟨less, small, large⟩ := step
  · rw [same]
    exact Nat.mul_le_mul_right _ sig
  · calc F32.sig a * 2 ^ max (F32.expo a) 1 ≤ 2 ^ 24 * 2 ^ max (F32.expo a) 1 := Nat.mul_le_mul_right _ small
      _ = 2 ^ 23 * 2 ^ (max (F32.expo a) 1 + 1) := by ring
      _ ≤ F32.sig b * 2 ^ max (F32.expo b) 1 := Nat.mul_le_mul large (Nat.pow_le_pow_right (by decide) less)

/-- The bits of the binary32 number nearest to a positive integer below 2^16: no bit is rounded away. -/
theorem F32.toNat_ofNat {n : Nat} (positive : 0 < n) (small : n < 2 ^ 16) :
    2 ^ 23 ≤ n * 2 ^ (23 - n.log2) ∧ n * 2 ^ (23 - n.log2) < 2 ^ 24 ∧
    (F32.ofNat n).toNat = (n.log2 + 126) * 2 ^ 23 + n * 2 ^ (23 - n.log2) := by
  have log : n.log2 < 16 := (Nat.log2_lt positive.ne').mpr small
  have lower : 2 ^ 23 ≤ n * 2 ^ (23 - n.log2) := by
    calc 2 ^ 23 = 2 ^ n.log2 * 2 ^ (23 - n.log2) := by rw [← Nat.pow_add]; congr 1; omega
      _ ≤ _ := Nat.mul_le_mul_right _ (Nat.log2_self_le positive.ne')
  have upper : n * 2 ^ (23 - n.log2) < 2 ^ 24 := by
    calc n * 2 ^ (23 - n.log2) < 2 ^ (n.log2 + 1) * 2 ^ (23 - n.log2) :=
          Nat.mul_lt_mul_of_pos_right Nat.lt_log2_self (by positivity)
      _ = 2 ^ 24 := by rw [← Nat.pow_add]; congr 1; omega
  have place : F32.ulpExp n 0 = (n.log2 : Int) - 23 := by unfold F32.ulpExp; omega
  have shift : ((0 : Int) - ((n.log2 : Int) - 23)).toNat = 23 - n.log2 := by omega
  have point : ((n.log2 : Int) - 23 + 149).toNat = n.log2 + 126 := by omega
  have bits : F32.roundMag n 0 = (n.log2 + 126) * 2 ^ 23 + n * 2 ^ (23 - n.log2) := by
    unfold F32.roundMag
    dsimp only
    rw [place, if_pos (by omega), shift, point]
  refine ⟨lower, upper, ?_⟩
  unfold F32.ofNat F32.round
  rw [if_neg positive.ne', bits]
  dsimp only
  rw [if_neg (by omega), BitVec.toNat_ofNat, if_neg (by decide)]
  omega

/-- The binary32 number nearest to a positive integer below 2^16 is a positive number, and is that integer. -/
theorem F32.ofNat_exact {n : Nat} (positive : 0 < n) (small : n < 2 ^ 16) :
    F32.isNaN (F32.ofNat n) = false ∧ F32.sign (F32.ofNat n) = false ∧ F32.scaled (F32.ofNat n) / 2 ^ 150 = n := by
  obtain ⟨lower, upper, bits⟩ := F32.toNat_ofNat positive small
  have log : n.log2 < 16 := (Nat.log2_lt positive.ne').mpr small
  have sign : F32.sign (F32.ofNat n) = false := by
    rw [F32.sign, BitVec.getLsbD, Nat.testBit_eq_decide_div_mod_eq, bits]
    simp
    omega
  have expo : F32.expo (F32.ofNat n) = n.log2 + 127 := by unfold F32.expo; rw [bits]; omega
  have frac : F32.frac (F32.ofNat n) + 2 ^ 23 = n * 2 ^ (23 - n.log2) := by unfold F32.frac; rw [bits]; omega
  have number : F32.isNaN (F32.ofNat n) = false := by
    rw [F32.isNaN, expo, beq_eq_false_iff_ne.mpr (by omega), Bool.false_and]
  refine ⟨number, sign, ?_⟩
  have whole : F32.scaled (F32.ofNat n) = n * 2 ^ 150 := by
    rw [F32.scaled, F32.sig, expo, if_neg (by omega), frac, Nat.max_eq_left (by omega), Nat.mul_assoc, ← Nat.pow_add]
    congr 2
    omega
  rw [whole, Nat.mul_div_cancel _ (by positivity)]

/-- Positive patterns are ordered as they stand (00_scope.md R18). -/
theorem F32.orderKey_of_positive {a : Word} (positive : F32.sign a = false) : F32.orderKey a = a.toNat := by
  obtain ⟨bits, expo, frac⟩ := F32.toNat_of_positive positive
  rw [F32.orderKey, positive, if_neg Bool.false_ne_true]
  omega

/-- A number above zero is positive. -/
theorem F32.sign_of_orderKey_pos {a : Word} (above : 0 < F32.orderKey a) : F32.sign a = false := by
  by_contra negative
  rw [F32.orderKey, if_pos (by simpa using negative)] at above
  omega

/-- A number that is not at most another is above it (00_scope.md R18). -/
theorem F32.orderKey_lt_of_not_le {a b : Word} (ha : F32.isNaN a = false) (hb : F32.isNaN b = false)
    (h : ¬ F32.le a b = true) : F32.orderKey b < F32.orderKey a := by
  rw [F32.le_iff] at h
  exact not_le.mp fun le => h ⟨ha, hb, le⟩

/-- A number above zero and below a positive integer below 2^16 truncates to at most that integer (00_scope.md R19). -/
theorem F32.trunc_le {v : Word} {n : Nat} (small : n < 2 ^ 16) (number : F32.isNaN v = false)
    (above : ¬ F32.le v 0 = true) (below : ¬ F32.le (F32.ofNat n) v = true) :
    ∃ m : Nat, F32.trunc v = m ∧ m ≤ n := by
  have key : 0 < F32.orderKey v := F32.orderKey_lt_of_not_le number rfl above
  have sign := F32.sign_of_orderKey_pos key
  have positive : 0 < n := by
    refine Nat.pos_of_ne_zero fun zero => below ?_
    rw [zero]
    exact (F32.le_iff 0 v).mpr ⟨rfl, number, key.le⟩
  obtain ⟨bound, boundSign, whole⟩ := F32.ofNat_exact positive small
  have less := F32.orderKey_lt_of_not_le bound number below
  rw [F32.orderKey_of_positive sign, F32.orderKey_of_positive boundSign] at less
  refine ⟨_, F32.trunc_of_positive sign, ?_⟩
  rw [← whole]
  exact Nat.div_le_div_right (F32.scaled_mono sign boundSign (by omega))

/-- A compare value is in 0..full (00_scope.md R19). -/
theorem toDuty_le (v : Word) (full : Half) : (toDuty v full).toNat ≤ full.toNat := by
  unfold toDuty
  split
  · exact Nat.zero_le _
  split
  · exact Nat.zero_le _
  split
  · exact le_rfl
  next nan above below =>
    obtain ⟨m, trunc, le⟩ := F32.trunc_le full.isLt (eq_false_of_ne_true nan) above below
    rw [show F32.binary32.trunc v = m from trunc, BitVec.ofInt_natCast, BitVec.toNat_ofNat]
    exact (Nat.mod_le m _).trans le

/-- Settles O32: each compare value is a `ToDuty` with the bound PWM_FULL. -/
theorem svpwmStaysInRange : Obligations.SvpwmStaysInRange := by
  intro s t ends
  cases ends
  exact ⟨svpwmDuties s, rfl, fun k => (congrArg BitVec.toNat (Phase.get_ofFn _ k)).trans_le (toDuty_le _ _)⟩

/-! ## PWMOUT -/

/-- Where SVPWM computed compare values in this cycle, PWMOUT drives them (43_controller.md R265). -/
theorem ccrNextIn_of_some {s : State} {c : Phase Half} (computed : s.cyc.ccrNext = some c) : s.ccrNextIn = c := by
  simp only [State.ccrNextIn, computed]

/-- PWMOUT changes no register but the three CCR and PHASE_EN. -/
theorem uopFrame_uopPwmout (s : State) : UopFrame [.ccr 0, .ccr 1, .ccr 2, .phaseEn] s (uopPwmout s) := by
  refine ⟨fun r other => ?_, rfl, rfl, rfl, rfl⟩
  cases r
  case phaseEn => simp at other
  case ccr k => exact absurd (by fin_cases k <;> simp) other
  all_goals rfl

/-- Settles O33: PWMOUT drives the compare values it finds, some where no SVPWM computed any. -/
theorem pwmoutDrivesAllPhases : Obligations.PwmoutDrivesAllPhases :=
  ⟨fun _ => rfl, fun s => ⟨s.ccrNextIn, uopPwmout s, fun _ => ccrNextIn_of_some, rfl, rfl, rfl, rfl, rfl,
    uopFrame_uopPwmout s⟩⟩

end Sys2Proof.Machine
end

section
/-! PROOFS. Identification and the backward sweep (45_commissioning.md): what MEAS_RL does at its operating points, in its
resistance and ripple cycles and at its end, GAINCALC's gains, and HL_REV. -/

namespace Sys2Proof.Machine

/-! ## Frames of the parts -/

/-- Driving phase a changes no register but the compare values and PHASE_EN (45_commissioning.md R330). -/
theorem uopFrame_drivePhases (duty : Half) (s : State) :
    UopFrame [.ccr 0, .ccr 1, .ccr 2, .phaseEn] s (drivePhases duty s) := by
  refine ⟨fun r other => ?_, rfl, rfl, rfl, rfl⟩
  cases r
  case phaseEn => simp at other
  case ccr k => exact absurd (by fin_cases k <;> simp) other
  all_goals rfl

/-- Driving phase a and advancing the count changes no register but the compare values, PHASE_EN and MEAS_CNT. -/
theorem uopFrame_drive (duty : Half) (s : State) :
    UopFrame [.ccr 0, .ccr 1, .ccr 2, .phaseEn, .measCnt] s (advanceMeas (drivePhases duty s)).drawn :=
  (uopFrame_drivePhases duty s).trans (uopFrame_measCnt (satInc s.com.measCnt) (drivePhases duty s))

/-! ## The operating points -/

/-- The nudged duty: one count towards the target band, within 0..PWM_FULL (45_commissioning.md R331). -/
theorem nudgeDuty_toNat (s : State) (tgt : Word) :
    let im := F32.neg s.pipe.phys.ib
    let d := s.com.measDuty.toNat
    (nudgeDuty s tgt).toNat =
      if F32.lt im (F32.sub (s.nan 0) tgt s.com.iBand) then min (d + 1) s.ctl.pwmFull.toNat
      else if F32.gt im (F32.add (s.nan 1) tgt s.com.iBand) then d - 1 else d := by
  have full := s.ctl.pwmFull.isLt
  have duty := s.com.measDuty.isLt
  dsimp only
  by_cases under : F32.lt (F32.neg s.pipe.phys.ib) (F32.sub (s.nan 0) tgt s.com.iBand) = true
  · have up : nudgeDuty s tgt = BitVec.ofNat 16 (min (s.com.measDuty.toNat + 1) s.ctl.pwmFull.toNat) := if_pos under
    rw [up, if_pos under, BitVec.toNat_ofNat]
    omega
  by_cases above : F32.gt (F32.neg s.pipe.phys.ib) (F32.add (s.nan 1) tgt s.com.iBand) = true
  · have down : nudgeDuty s tgt = if 0 < s.com.measDuty.toNat then BitVec.ofNat 16 (s.com.measDuty.toNat - 1) else 0 :=
      (if_neg under).trans (if_pos above)
    rw [down, if_neg under, if_pos above]
    split
    · rw [BitVec.toNat_ofNat]
      omega
    · rw [Nat.sub_eq_zero_of_le (by omega)]
      rfl
  · have within : nudgeDuty s tgt = s.com.measDuty := (if_neg under).trans (if_neg above)
    rw [within, if_neg under, if_neg above]

/-- A cycle of the first operating point (45_commissioning.md R331). -/
theorem uopMeasRl_of_point1 {s : State} (first : s.com.measCnt.toNat < s.com.measT1.toNat) :
    uopMeasRl s = (advanceMeas (measPoint1 s)).drawn :=
  if_pos first

/-- A cycle of the second operating point (45_commissioning.md R331). -/
theorem uopMeasRl_of_point2 {s : State} (notFirst : ¬ s.com.measCnt.toNat < s.com.measT1.toNat)
    (second : s.com.measCnt.toNat < s.com.measT2.toNat) : uopMeasRl s = (advanceMeas (measPoint2 s)).drawn :=
  (if_neg notFirst).trans (if_pos second)

/-- The resistance cycle (45_commissioning.md R331). -/
theorem uopMeasRl_of_resistance {s : State} (notFirst : ¬ s.com.measCnt.toNat < s.com.measT1.toNat)
    (last : s.com.measCnt.toNat = s.com.measT2.toNat) : uopMeasRl s = (advanceMeas (measResistance s)).drawn :=
  (if_neg notFirst).trans ((if_neg last.not_lt).trans (if_pos last))

/-- A cycle of the ripple phase (45_commissioning.md R331). -/
theorem uopMeasRl_of_ripple {s : State} (notFirst : ¬ s.com.measCnt.toNat < s.com.measT1.toNat)
    (past : s.com.measT2.toNat < s.com.measCnt.toNat) (ripple : s.com.measCnt.toNat < s.com.measT3.toNat) :
    uopMeasRl s = (advanceMeas (measRipple s)).drawn :=
  (if_neg notFirst).trans ((if_neg past.le.not_gt).trans ((if_neg past.ne').trans (if_pos ripple)))

/-- The completing cycle (45_commissioning.md R331). -/
theorem uopMeasRl_of_complete {s : State} (notFirst : ¬ s.com.measCnt.toNat < s.com.measT1.toNat)
    (past : s.com.measT2.toNat < s.com.measCnt.toNat) (ended : ¬ s.com.measCnt.toNat < s.com.measT3.toNat) :
    uopMeasRl s = completeRl s :=
  (if_neg notFirst).trans ((if_neg past.le.not_gt).trans ((if_neg past.ne').trans (if_neg ended)))

/-- The first operating point changes no register but its own, STATUS and the outputs. -/
theorem uopFrame_measPoint1 (s : State) :
    UopFrame [.status, .measDuty, .measI1, .measD12, .ccr 0, .ccr 1, .ccr 2, .phaseEn, .measCnt] s
      (advanceMeas (measPoint1 s)).drawn := by
  refine UopFrame.trans (ws := [.status, .measDuty, .measI1, .measD12]) ?_ (uopFrame_drive _ _)
  refine ⟨fun r other => ?_, rfl, rfl, rfl, rfl⟩
  cases r
  case status | measDuty | measI1 | measD12 => simp at other
  all_goals rfl

/-- The second operating point changes no register but its own, STATUS and the outputs. -/
theorem uopFrame_measPoint2 (s : State) :
    UopFrame [.status, .measDuty, .measI2, .measD12, .ccr 0, .ccr 1, .ccr 2, .phaseEn, .measCnt] s
      (advanceMeas (measPoint2 s)).drawn := by
  refine UopFrame.trans (ws := [.status, .measDuty, .measI2, .measD12]) ?_ (uopFrame_drive _ _)
  refine ⟨fun r other => ?_, rfl, rfl, rfl, rfl⟩
  cases r
  case status | measDuty | measI2 | measD12 => simp at other
  all_goals rfl

/-- Below a bound the count advances by one. -/
theorem satInc_toNat_of_lt {w : Nat} {x y : BitVec w} (below : x.toNat < y.toNat) : (satInc x).toNat = x.toNat + 1 := by
  have bound := y.isLt
  rw [satInc_toNat]
  omega

/-- A lone MEAS_RL leaves what the micro-operation leaves. -/
theorem exec_measRl_of_eq {s t : State} (h : uopMeasRl s = t) : exec .measRl s = .next t :=
  congrArg Host.Outcome.next h

/-- Settles O37: by the two operating points, each over the free values of its sites. -/
theorem measRlOperatingPoints : Obligations.MeasRlOperatingPoints := by
  refine ⟨fun rest => rfl, fun s points => ?_⟩
  by_cases first : s.com.measCnt.toNat < s.com.measT1.toNat
  · have last : (s.com.measCnt.toNat + 1 == s.com.measT1.toNat) = true ↔
        s.com.measCnt.toNat + 1 = s.com.measT1.toNat := beq_iff_eq
    refine ⟨_, s.nan, exec_measRl_of_eq (uopMeasRl_of_point1 first), ?_, ?_, rfl, rfl, satInc_toNat_of_lt first,
      (uopFrame_measPoint1 s).mono (by decide)⟩
    · rw [if_pos first]
      exact nudgeDuty_toNat s _
    · exact (if_pos first).mpr ⟨rfl, rfl, rfl, rfl, if_congr last rfl rfl⟩
  · have second := points.resolve_left first
    have last : (s.com.measCnt.toNat + 1 == s.com.measT2.toNat) = true ↔
        s.com.measCnt.toNat + 1 = s.com.measT2.toNat := beq_iff_eq
    refine ⟨_, s.nan, exec_measRl_of_eq (uopMeasRl_of_point2 first second), ?_, ?_, rfl, rfl, satInc_toNat_of_lt second,
      (uopFrame_measPoint2 s).mono (by decide)⟩
    · rw [if_neg first]
      exact nudgeDuty_toNat s _
    · exact (if_neg first).mpr ⟨rfl, rfl, rfl, rfl, if_congr last rfl rfl⟩

/-! ## The resistance and the ripple -/

/-- The resistance cycle changes no register but R_PHASE, STATUS, the outputs and the count. -/
theorem uopFrame_measResistance (s : State) :
    UopFrame [.rPhase, .status, .ccr 0, .ccr 1, .ccr 2, .phaseEn, .measCnt] s
      (advanceMeas (measResistance s)).drawn := by
  refine UopFrame.trans (ws := [.rPhase, .status]) ?_ (uopFrame_drive _ _)
  refine ⟨fun r other => ?_, rfl, rfl, rfl, rfl⟩
  cases r
  case rPhase | status => simp at other
  all_goals rfl

/-- An odd cycle of the ripple phase filters the high current and drives 0 (45_commissioning.md R333). -/
theorem measRipple_of_odd {s : State} (odd : (s.com.measCnt.toNat - s.com.measT2.toNat) % 2 = 1) :
    measRipple s =
      drivePhases 0 (s.onCom fun x => { x with measIh := measFilter s 0 x.measIh (measIm s) }) :=
  if_pos odd

/-- An even one filters the low current and drives the held duty (45_commissioning.md R333). -/
theorem measRipple_of_even {s : State} (even : ¬ (s.com.measCnt.toNat - s.com.measT2.toNat) % 2 = 1) :
    measRipple s =
      drivePhases s.com.measDuty (s.onCom fun x => { x with measIl := measFilter s 0 x.measIl (measIm s) }) :=
  if_neg even

/-- The ripple phase changes no register but the two currents, the outputs and the count. -/
theorem uopFrame_measRipple (s : State) :
    UopFrame [.measIh, .measIl, .ccr 0, .ccr 1, .ccr 2, .phaseEn, .measCnt] s (advanceMeas (measRipple s)).drawn := by
  by_cases odd : (s.com.measCnt.toNat - s.com.measT2.toNat) % 2 = 1
  · rw [measRipple_of_odd odd]
    refine UopFrame.trans (ws := [.measIh, .measIl]) ?_ (uopFrame_drive _ _)
    refine ⟨fun r other => ?_, rfl, rfl, rfl, rfl⟩
    cases r
    case measIh => simp at other
    all_goals rfl
  · rw [measRipple_of_even odd]
    refine UopFrame.trans (ws := [.measIh, .measIl]) ?_ (uopFrame_drive _ _)
    refine ⟨fun r other => ?_, rfl, rfl, rfl, rfl⟩
    cases r
    case measIl => simp at other
    all_goals rfl

/-- Settles O38: by the resistance cycle and the odd and even cycles of the ripple phase. -/
theorem measRlResistanceAndRipple : Obligations.MeasRlResistanceAndRipple := by
  refine ⟨fun s past last => ?resistance, fun s past second ripple => ?ripple⟩
  case resistance =>
    exact ⟨_, s.nans [4, 2, 1, 0, 3], exec_measRl_of_eq (uopMeasRl_of_resistance past.not_gt last), rfl, rfl, rfl, rfl,
      satInc_toNat _, uopFrame_measResistance s⟩
  case ripple =>
    have frame := uopFrame_measRipple s
    have runs := exec_measRl_of_eq (uopMeasRl_of_ripple past.not_gt second ripple)
    by_cases odd : (s.com.measCnt.toNat - s.com.measT2.toNat) % 2 = 1
    · rw [measRipple_of_odd odd] at frame runs
      exact ⟨_, s.nan, runs, (if_pos odd).mpr ⟨rfl, rfl, rfl⟩, rfl, satInc_toNat_of_lt ripple, frame⟩
    · rw [measRipple_of_even odd] at frame runs
      exact ⟨_, s.nan, runs, (if_neg odd).mpr ⟨rfl, rfl, rfl⟩, rfl, satInc_toNat_of_lt ripple, frame⟩

/-! ## The gains and the completion -/

/-- GAINCALC changes no register but the four gains (45_commissioning.md R335). -/
theorem uopFrame_uopGaincalc (s : State) : UopFrame [.kpD, .kpQ, .kiD, .kiQ] s (uopGaincalc s) := by
  refine ⟨fun r other => ?_, rfl, rfl, rfl, rfl⟩
  cases r
  case kpD | kpQ | kiD | kiQ => simp at other
  all_goals rfl

/-- Settles O40: GAINCALC writes R335's two formulas over the free values of its sites. -/
theorem gaincalcComputesGains : Obligations.GaincalcComputesGains :=
  ⟨fun _ => rfl, fun s => ⟨uopGaincalc s, s.nan, rfl, rfl, rfl, rfl, rfl, uopFrame_uopGaincalc s⟩⟩

/-- A new inductance changes no register but L_PHASE (10_state.md R74). -/
theorem uopFrame_lPhase (l : Word) (s : State) :
    UopFrame [.lPhase] s (s.onMot fun m => { m with lPhase := l }).drawn := by
  refine ⟨fun r other => ?_, rfl, rfl, rfl, rfl⟩
  cases r
  case lPhase => simp at other
  all_goals rfl

/-- The completing cycle changes no register but L_PHASE, the gains, STATUS and PHASE_EN (45_commissioning.md R336). -/
theorem uopFrame_completeRl (s : State) :
    UopFrame [.lPhase, .kpD, .kpQ, .kiD, .kiQ, .status, .phaseEn] s (completeRl s) := by
  have gains := (uopFrame_lPhase (inductance s) s).trans (uopFrame_uopGaincalc _)
  have off := (gains.trans (uopFrame_onStatus (fun x => { x with dirty := true }) _)).trans (uopFrame_outputsOff _)
  exact (off.trans (uopFrame_goto .detecting _)).mono (by decide)

/-- The free values of the completing cycle: those of the inductance's formula, then those of the gains, which are drawn
after it (log entry 6). -/
def completionNans (s : State) (n : Nat) : BitVec 23 :=
  if n < 7 then s.nans [1, 0, 2, 6, 5, 4, 3] n else s.drawn.nan (n - 7)

/-- Settles O39: the completing cycle writes R334's formula or its floor, the gains from it, and goes to Detecting. -/
theorem measRlCompletes : Obligations.MeasRlCompletes := by
  intro s _ past second ended
  exact ⟨_, completionNans s, exec_measRl_of_eq (uopMeasRl_of_complete past.not_gt second ended.not_gt), rfl, rfl, rfl, rfl,
    rfl, rfl, rfl, rfl, uopFrame_completeRl s⟩

/-- MEAS_RL, in whichever cycle, changes no register but those of identification and the outputs it drives. -/
theorem uopFrame_uopMeasRl (s : State) :
    UopFrame [.status, .measDuty, .measI1, .measI2, .measD12, .rPhase, .measIh, .measIl, .lPhase, .kpD, .kpQ, .kiD, .kiQ,
      .ccr 0, .ccr 1, .ccr 2, .phaseEn, .measCnt] s (uopMeasRl s) := by
  unfold uopMeasRl
  dsimp only
  split_ifs
  · exact (uopFrame_measPoint1 s).mono (by decide)
  · exact (uopFrame_measPoint2 s).mono (by decide)
  · exact (uopFrame_measResistance s).mono (by decide)
  · exact (uopFrame_measRipple s).mono (by decide)
  · exact (uopFrame_completeRl s).mono (by decide)

/-! ## HL_REV -/

/-- The backward sweep ends where a step would pass 0 (45_commissioning.md R343). -/
theorem uopHlRev_of_end {s : State} (bottom : s.est.theta.toNat < atLeastOne s.com.sweepStep) :
    uopHlRev s = uopHlFinish (accumulate s.ctl.hallRaw s.est.theta s) :=
  if_pos bottom

/-- Before its end the backward sweep steps the angle down (45_commissioning.md R343). -/
theorem uopHlRev_of_step {s : State} (above : ¬ s.est.theta.toNat < atLeastOne s.com.sweepStep) :
    uopHlRev s = (accumulate s.ctl.hallRaw s.est.theta s).onEst fun x =>
      { x with theta := BitVec.ofNat 16 (s.est.theta.toNat - atLeastOne s.com.sweepStep) } :=
  if_neg above

/-- A lone HL_REV leaves what the micro-operation leaves. -/
theorem exec_hlRev_of_eq {s t : State} (h : uopHlRev s = t) : exec .hlRev s = .next t :=
  congrArg Host.Outcome.next h

/-- Settles O44: by the two things HL_REV can do; a step that is taken stays at or above 0. -/
theorem hlRevSweepsDown : Obligations.HlRevSweepsDown := by
  refine ⟨fun rest => rfl, fun s k number => ?_⟩
  have sector := (hallSector_eq_some_iff s.ctl.hallRaw k).mpr number
  refine ⟨fun bottom => ?ends, fun above => ?steps⟩
  case ends =>
    rw [exec_hlRev_of_eq (uopHlRev_of_end bottom), accumulate_of_sector sector]
    rfl
  case steps =>
    refine ⟨_, exec_hlRev_of_eq (uopHlRev_of_step above.not_gt), accumulate_hl sector s.est.theta s, ?_,
      (uopFrame_accumulate sector s.est.theta s).trans (uopFrame_theta _ _)⟩
    exact Nat.mod_eq_of_lt (by have := s.est.theta.isLt; omega)

end Sys2Proof.Machine
end

section
/-! PROOFS. What every micro-operation may write, said once: its registers, and that SAMPLE alone latches samples. From it a
cycle's frame: the configuration, the frozen offsets and the latched ports (46_host_interface.md R372, 20_memory.md R115). -/

namespace Sys2Proof.Machine

/-! ## The registers a micro-operation may write -/

/-- The registers that a micro-operation may change, in whatever state (30_encoding.md R143). -/
def uopWrites : Uop → List Reg
  | .sample => [.raw 0, .raw 1, .raw 2, .raw 3, .hallio, .status]
  | .convert => [.phys 0, .phys 1, .phys 2, .phys 3]
  | .warmup => [.wsum 0, .wsum 1, .wsum 2, .warmupCnt, .offset 0, .offset 1, .offset 2, .status]
  | .clark3 | .clark2Xa | .clark2Xb | .clark2Xc => [.iAlpha, .iBeta]
  | .clarksel => [.status, .iAlpha, .iBeta]
  | .park => [.iD, .iQ]
  | .protect => [.idReq, .iqReq, .fault, .fraw 0, .fraw 1, .fraw 2, .fraw 3, .status, .phaseEn]
  | .hall => [.hallio, .lastHallCenter, .fault, .status, .phaseEn]
  | .flux => [.fluxA, .fluxB, .fluxBlk, .status]
  | .track => [.trkCnt, .trkStep, .trkInvper, .trkErr, .lastEvt, .theta, .status]
  | .sincos => [.sin, .cos]
  | .pi => [.piCnt, .intD, .vd, .intQ, .vq]
  | .invpark => [.vAlpha, .vBeta]
  | .invclark => [.vph 0, .vph 1, .vph 2]
  | .svpwm => []
  | .pwmout => [.ccr 0, .ccr 1, .ccr 2, .phaseEn]
  | .fsm => [.status, .measCnt, .measDuty, .measD12, .measI1, .measI2, .measIh, .measIl]
  | .measRl =>
    [.status, .measDuty, .measI1, .measI2, .measD12, .rPhase, .measIh, .measIl, .lPhase, .kpD, .kpQ, .kiD, .kiQ,
      .ccr 0, .ccr 1, .ccr 2, .phaseEn, .measCnt]
  | .gaincalc => [.kpD, .kpQ, .kiD, .kiQ]
  | .hlAlign => [.theta, .status, .measCnt]
  | .hlFwd => Reg.hallAccumulators ++ [.status, .theta]
  | .hlRev => Reg.hallAccumulators ++ (.status :: .lastHallCenter :: .theta :: Reg.hallTable)
  | .hlFinish => .status :: .lastHallCenter :: Reg.hallTable
  | .inject => [.vd, .vq]
  | .brk => [.phaseEn, .status]
  | .outoff => [.phaseEn]
  | .detect => .status :: .measCnt :: .fault :: .phaseEn :: Reg.hallAccumulators

theorem RegsFixedBut.refl (ws : List Reg) (s : State) : RegsFixedBut ws s s := fun _ _ => rfl

theorem regsFixedBut_uopWarmup (s : State) : RegsFixedBut (uopWrites .warmup) s (uopWarmup s) := by
  by_cases counting : s.pipe.warmupCnt.toNat < 1000
  · exact (uopFrame_uopWarmup counting).1
  · rw [uopWarmup_of_done (not_lt.mp counting)]
    exact .refl _ s

theorem regsFixedBut_uopClarksel (s : State) : RegsFixedBut (uopWrites .clarksel) s (uopClarksel s) := by
  obtain ⟨v, alpha, beta, current⟩ := uopClarksel_eq s
  rw [current]
  exact ((uopFrame_onStatus _ s).trans (uopFrame_setIab alpha beta _)).1

theorem regsFixedBut_uopProtect (s : State) : RegsFixedBut (uopWrites .protect) s (uopProtect s).state := by
  by_cases viol : s.violation = true
  · by_cases trips : Trips s
    · rw [uopProtect_of_trips viol trips]
      have frame := ((uopFrame_countViolation s).trans (uopFrame_snapshotRaw _)).trans (uopFrame_raiseFault .overLimit _)
      exact (frame.mono (by decide)).1
    · rw [uopProtect_of_not_trips viol trips]
      exact ((uopFrame_countViolation s).mono (by decide)).1
  · rw [uopProtect_of_not_violation viol]
    exact ((uopFrame_violCnt 0 s).mono (by decide)).1

/-- The three outcomes of HALL (42_estimator.md R220). -/
theorem uopHall_outcomes (s : State) :
    uopHall s = .raised (raiseFault (invalidHallCode s.ctl.hallRaw) s) ∨ uopHall s = .done s ∨
      ∃ k, uopHall s = .done (hallEdge k s) := by
  cases sector : hallSector s.ctl.hallRaw with
  | none => exact .inl (uopHall_of_none sector)
  | some k =>
    by_cases same : s.ctl.hallRaw = s.ctl.lastHall
    · exact .inr (.inl (uopHall_of_unchanged sector same))
    · exact .inr (.inr ⟨k, uopHall_of_changed sector same⟩)

theorem regsFixedBut_uopHall (s : State) : RegsFixedBut (uopWrites .hall) s (uopHall s).state := by
  obtain out | out | ⟨k, out⟩ := uopHall_outcomes s <;> rw [out]
  · exact ((uopFrame_raiseFault _ s).mono (by decide)).1
  · exact .refl _ s
  · exact (regsFixedBut_hallEdge k s).mono (by decide)

theorem regsFixedBut_uopFsm (s : State) : RegsFixedBut (uopWrites .fsm) s (uopFsm s) := by
  obtain out | ⟨out, -⟩ | ⟨out, -⟩ := uopFsm_cases s <;> rw [out]
  · exact .refl _ s
  · exact ((uopFrame_enterHallRun s).mono (by decide)).1
  · exact (uopFrame_enterIdentification s).1

theorem regsFixedBut_uopDetect (s : State) : RegsFixedBut (uopWrites .detect) s (uopDetect s).state := by
  obtain ⟨out, -⟩ | ⟨out, -⟩ | ⟨out, -⟩ | ⟨out, -⟩ := uopDetect_cases s <;> rw [out]
  · exact ((uopFrame_raiseFault _ s).mono (by decide)).1
  · exact ((uopFrame_goto _ s).mono (by decide)).1
  · exact ((uopFrame_goto _ s).mono (by decide)).1
  · exact ((uopFrame_enterHallLearning s).mono (by decide)).1

theorem regsFixedBut_uopHlAlign (s : State) : RegsFixedBut (uopWrites .hlAlign) s (uopHlAlign s) := by
  by_cases last : s.com.alignT.toNat ≤ s.com.measCnt.toNat + 1
  · rw [uopHlAlign_of_last last]
    exact (((uopFrame_theta 0 s).trans (uopFrame_onStatus _ _)).trans (uopFrame_measCnt 0 _)).1
  · rw [uopHlAlign_of_waiting last]
    exact (((uopFrame_theta 0 s).trans (uopFrame_measCnt _ _)).mono (by decide)).1

/-- Accumulating, on whatever Hall state, changes no register but the accumulators (45_commissioning.md R341). -/
theorem regsFixedBut_accumulate (h : BitVec 3) (a : Half) (s : State) :
    RegsFixedBut Reg.hallAccumulators s (accumulate h a s) := by
  cases sector : hallSector h with
  | none =>
    have nothing : accumulate h a s = s := by simp only [accumulate, sector]
    rw [nothing]
    exact .refl _ s
  | some k =>
    obtain ⟨cnt, sum, ref⟩ := Reg.mem_hallAccumulators k
    exact (uopFrame_accumulate sector a s).1.mono (by simp [cnt, sum, ref])

theorem regsFixedBut_uopHlFwd (s : State) : RegsFixedBut (uopWrites .hlFwd) s (uopHlFwd s) := by
  have swept := regsFixedBut_accumulate s.ctl.hallRaw s.est.theta s
  by_cases top : 65535 - s.est.theta.toNat < atLeastOne s.com.sweepStep
  · rw [uopHlFwd_of_end top]
    exact swept.trans (((uopFrame_onStatus _ _).mono (by decide)).1)
  · rw [uopHlFwd_of_step top]
    exact swept.trans (((uopFrame_theta _ _).mono (by decide)).1)

theorem regsFixedBut_uopHlRev (s : State) : RegsFixedBut (uopWrites .hlRev) s (uopHlRev s) := by
  have swept := regsFixedBut_accumulate s.ctl.hallRaw s.est.theta s
  by_cases bottom : s.est.theta.toNat < atLeastOne s.com.sweepStep
  · rw [uopHlRev_of_end bottom]
    exact swept.trans (((uopFrame_uopHlFinish _).mono (by decide)).1)
  · rw [uopHlRev_of_step bottom]
    exact swept.trans (((uopFrame_theta _ _).mono (by decide)).1)

/-- A micro-operation changes no register but those it may write. -/
theorem regsFixedBut_runUop (u : Uop) (s : State) : RegsFixedBut (uopWrites u) s (runUop u s).state := by
  cases u
  case sample => exact (uopFrame_uopSample s).1
  case convert => exact (uopFrame_uopConvert s).1
  case warmup => exact regsFixedBut_uopWarmup s
  case clark3 | clark2Xa | clark2Xb | clark2Xc => exact (uopFrame_setIab _ _ s).1
  case clarksel => exact regsFixedBut_uopClarksel s
  case park => exact (uopFrame_uopPark s).1
  case protect => exact regsFixedBut_uopProtect s
  case hall => exact regsFixedBut_uopHall s
  case flux => exact regsFixedBut_uopFlux s
  case track => exact regsFixedBut_uopTrack s
  case sincos => exact (uopFrame_uopSincos s).1
  case pi => exact (uopFrame_uopPi s).1
  case invpark => exact (uopFrame_uopInvpark s).1
  case invclark => exact (uopFrame_uopInvclark s).1
  case svpwm => exact regsFixedBut_uopSvpwm s
  case pwmout => exact (uopFrame_uopPwmout s).1
  case fsm => exact regsFixedBut_uopFsm s
  case measRl => exact (uopFrame_uopMeasRl s).1
  case gaincalc => exact (uopFrame_uopGaincalc s).1
  case hlAlign => exact regsFixedBut_uopHlAlign s
  case hlFwd => exact regsFixedBut_uopHlFwd s
  case hlRev => exact regsFixedBut_uopHlRev s
  case hlFinish => exact (uopFrame_uopHlFinish s).1
  case inject => exact (uopFrame_uopInject s).1
  case brk => exact (uopFrame_softwareBreak s).1
  case outoff => exact (uopFrame_outputsOff s).1
  case detect => exact regsFixedBut_uopDetect s

/-- A register that no micro-operation writes reads the same after a cycle. -/
theorem fastCycle_read {r : Reg} {s t : State} (unwritten : ∀ u, r ∉ uopWrites u) (cycle : fastCycle s = some t) :
    r.read t = r.read s :=
  fastCycle_keeps (P := fun x => r.read x = r.read s)
    (fun u x kept => (regsFixedBut_runUop u x r (unwritten u)).trans kept) rfl cycle

/-- What every micro-operation of a cycle's two sequences keeps, the cycle keeps (44_state_machine.md R290). -/
theorem fastCycle_keeps_of_uops {P : State → Prop} {s t : State}
    (common : ∀ u x, u ∈ commonSeq s ∨ u = .outoff → P x → P (runUop u x).state)
    (selected : ∀ us u x, s.seq = some us → u ∈ us ∨ u = .outoff → P x → P (runUop u x).state) (hs : P s)
    (cycle : fastCycle s = some t) : P t := by
  have quiet := runSeq_keeps (commonSeq s) s common hs
  rw [runSeq_commonSeq] at quiet
  obtain trip | ⟨us, m, selects, out, rfl⟩ := fastCycle_cases cycle
  · rw [trip] at quiet
    exact quiet
  · rw [out] at quiet
    exact runSeq_keeps us m (fun u x => selected us u x selects) quiet

/-! ## The configuration and the offsets -/

/-- No micro-operation writes a register of the host's alone (10_state.md R31). -/
theorem hostOnly_unwritten (u : Uop) : ∀ r ∈ Reg.hostOnly, r ∉ uopWrites u := by
  cases u <;> decide

/-- Presenting the ports changes no register. -/
theorem Reg.read_presentPorts (r : Reg) (p : Ports) (s : State) : r.read (presentPorts p s) = r.read s := by
  cases r <;> rfl

/-- The end of a TICK changes no register. -/
theorem Reg.read_endTick (r : Reg) (s : State) : r.read (endTick s) = r.read s := by
  cases r <;> rfl

/-- The four offsets are what their registers read (10_state.md R51). -/
theorem offset_eq_of_reads {s t : State} (same : ∀ k, (Reg.offset k).read t = (Reg.offset k).read s) :
    t.pipe.offset = s.pipe.offset := by
  have reads : t.pipe.offset.get = s.pipe.offset.get := funext same
  rw [← Chan.ofFn_get t.pipe.offset, reads, Chan.ofFn_get]

/-- WARMUP alone writes offsets (40_signal_pipeline.md R163). -/
theorem runUop_offset {u : Uop} (notWarmup : u ≠ .warmup) (s : State) :
    (runUop u s).state.pipe.offset = s.pipe.offset := by
  have unwritten : ∀ k, .offset k ∉ uopWrites u := by
    cases u
    case warmup => exact absurd rfl notWarmup
    all_goals decide
  exact offset_eq_of_reads fun k => regsFixedBut_runUop u s _ (unwritten k)

/-- No state's sequence warms up (44_state_machine.md R292). -/
theorem warmup_notMem_stateSeq {st : OpState} {sub : SubPhase} {us : List Uop} (selected : stateSeq st sub = some us) :
    .warmup ∉ us := by
  cases st
  case measuring => cases sub <;> cases selected <;> decide
  all_goals cases selected <;> decide

/-- Once warm-up is done, or outside Idle, the common sequence has no WARMUP (44_state_machine.md R291). -/
theorem warmup_notMem_commonSeq {s : State}
    (frozen : s.ctl.status.warmupDone = true ∨ s.ctl.status.opstate ≠ .idle) : .warmup ∉ commonSeq s := by
  have cold : ¬ (s.ctl.status.opstate = .idle ∧ s.ctl.status.warmupDone = false) := by
    rintro ⟨idle, undone⟩
    exact frozen.elim (by simp [undone]) (absurd idle)
  rw [commonSeq, if_neg cold]
  decide

/-- Once warm-up is done, or outside Idle, a cycle keeps the offsets (40_signal_pipeline.md R163). -/
theorem fastCycle_offset {s t : State} (frozen : s.ctl.status.warmupDone = true ∨ s.ctl.status.opstate ≠ .idle)
    (cycle : fastCycle s = some t) : t.pipe.offset = s.pipe.offset := by
  have keeps {us : List Uop} (without : .warmup ∉ us) (u : Uop) (x : State) (mem : u ∈ us ∨ u = .outoff)
      (kept : x.pipe.offset = s.pipe.offset) : (runUop u x).state.pipe.offset = s.pipe.offset :=
    (runUop_offset (by rintro rfl; exact mem.elim without nofun) x).trans kept
  exact fastCycle_keeps_of_uops (P := fun x => x.pipe.offset = s.pipe.offset) (keeps (warmup_notMem_commonSeq frozen))
    (fun us u x selects => keeps (warmup_notMem_stateSeq selects) u x) rfl cycle

/-- Settles O57: no micro-operation writes the host's registers, and only a WARMUP the offsets. -/
theorem cyclesKeepConfiguration : Obligations.CyclesKeepConfiguration := by
  intro s t hwbrk probe hall ia ib ic vbus ends
  obtain ⟨u, cycle, rfl⟩ := exec_tick_next ends
  refine ⟨fun r mem => ?_, fun frozen => fastCycle_offset (s := presentPorts _ s) (t := u) frozen cycle⟩
  rw [r.read_endTick, fastCycle_read (fun u => hostOnly_unwritten u r mem) cycle, r.read_presentPorts]

/-! ## The samples -/

/-- What SAMPLE latches beside HW_BRK: the raw samples, the Hall state and the probe code (40_signal_pipeline.md R161). -/
def State.samples (s : State) : Chan Half × BitVec 3 × BitVec 4 := (s.pipe.raw, s.ctl.hallRaw, s.ctl.probe)

/-- Bits 0 to 2 of HALLIO are HALL_RAW (10_state.md R45). -/
theorem Reg.read_hallio_hallRaw (s : State) : (Reg.hallio.read s).extractLsb' 0 3 = s.ctl.hallRaw := by
  unfold Reg.read
  dsimp only
  ext i bit
  simp only [BitVec.getElem_extractLsb', BitVec.getLsbD_append]
  grind

/-- Bits 8 to 11 of HALLIO are PROBE (10_state.md R45). -/
theorem Reg.read_hallio_probe (s : State) : (Reg.hallio.read s).extractLsb' 8 4 = s.ctl.probe := by
  unfold Reg.read
  dsimp only
  ext i bit
  simp only [BitVec.getElem_extractLsb', BitVec.getLsbD_append]
  grind

/-- The samples are told by the registers that show them. -/
theorem samples_eq_of_reads {s t : State} (raw : ∀ k, (Reg.raw k).read t = (Reg.raw k).read s)
    (hallio : Reg.hallio.read t = Reg.hallio.read s) : t.samples = s.samples := by
  have samples : t.pipe.raw.get = s.pipe.raw.get := funext fun k => by
    have low := congrArg (BitVec.setWidth 16) (raw k)
    simpa [Reg.read] using low
  have hallRaw := congrArg (BitVec.extractLsb' 0 3) hallio
  have probe := congrArg (BitVec.extractLsb' 8 4) hallio
  rw [Reg.read_hallio_hallRaw, Reg.read_hallio_hallRaw] at hallRaw
  rw [Reg.read_hallio_probe, Reg.read_hallio_probe] at probe
  rw [State.samples, State.samples, ← Chan.ofFn_get t.pipe.raw, samples, Chan.ofFn_get, hallRaw, probe]

/-- SAMPLE alone latches samples (40_signal_pipeline.md R161). -/
theorem runUop_samples {u : Uop} (notSample : u ≠ .sample) (s : State) : (runUop u s).state.samples = s.samples := by
  have unshown (v : Uop) (raw : ∀ k, .raw k ∉ uopWrites v) (hallio : .hallio ∉ uopWrites v) :
      (runUop v s).state.samples = s.samples :=
    samples_eq_of_reads (fun k => regsFixedBut_runUop v s _ (raw k)) (regsFixedBut_runUop v s _ hallio)
  cases u
  case sample => exact absurd rfl notSample
  case hall =>
    rw [show runUop .hall s = uopHall s from rfl]
    obtain out | out | ⟨k, out⟩ := uopHall_outcomes s <;> rw [out]
    · obtain ⟨regs, -⟩ := uopFrame_raiseFault (invalidHallCode s.ctl.hallRaw) s
      exact samples_eq_of_reads (fun k => regs _ (by simp)) (regs _ (by decide))
    · rfl
    · rfl
  all_goals exact unshown _ (by decide) (by decide)

/-- A sequence without SAMPLE keeps the samples. -/
theorem runSeq_samples {us : List Uop} (noSample : .sample ∉ us) (s : State) :
    (runSeq us s).state.samples = s.samples :=
  runSeq_keeps (P := fun x => x.samples = s.samples) us s
    (fun _ x mem kept => (runUop_samples (by rintro rfl; exact mem.elim noSample nofun) x).trans kept) rfl

/-- The common sequence leaves the port values that were presented (40_signal_pipeline.md R161). -/
theorem commonSeq_samples (p : Ports) (s : State) :
    (uopProtect (beforeProtect (presentPorts p s))).state.samples = (p.raw, p.hall, p.probe) := by
  obtain ⟨begins, noSample⟩ := commonSeq_sample (presentPorts p s)
  rw [← runSeq_commonSeq, begins, runSeq_of_done (u := .sample) rfl (by simp), runSeq_samples noSample]
  rfl

/-- So does a cycle. -/
theorem fastCycle_samples {p : Ports} {s t : State} (cycle : fastCycle (presentPorts p s) = some t) :
    t.samples = (p.raw, p.hall, p.probe) := by
  have latched := commonSeq_samples p s
  obtain trip | ⟨us, m, selects, out, rfl⟩ := fastCycle_cases cycle
  · rw [trip] at latched
    exact latched
  · rw [out] at latched
    exact (runSeq_samples (sample_notMem_stateSeq selects) m).trans latched

/-- Settles O14: the cycle of an executing state ends, with the samples of its ports. -/
theorem tickCompletesAndLatchesPorts : Obligations.TickCompletesAndLatchesPorts := by
  intro s hwbrk probe hall ia ib ic vbus seen executes
  obtain ⟨t, cycle⟩ :=
    fastCycle_of_executing (s := presentPorts ⟨⟨ia, ib, ic, vbus⟩, hall, probe, hwbrk⟩ s) executes
  obtain ⟨seen', stream, responses⟩ := fastCycle_records cycle
  obtain ⟨raw, halls, probes⟩ : t.pipe.raw = _ ∧ t.ctl.hallRaw = _ ∧ t.ctl.probe = _ := by
    simpa only [State.samples, Prod.mk.injEq] using fastCycle_samples cycle
  exact ⟨endTick t, exec_tick_of_cycle seen cycle, raw, halls, probes, fastCycle_hwBrk cycle,
    congrArg (· ++ [_]) responses, rfl, stream, seen'.trans seen⟩

/-! ## Lone micro-operations -/

/-- Settles O47: a lone micro-operation answers what it leaves, fault or not, and none touches the records. -/
theorem microOperationsNeverStop : Obligations.MicroOperationsNeverStop :=
  fun u s => ⟨_, exec_uopInstr u s, runUop_records u s⟩

end Sys2Proof.Machine
end

section
/-! PROOFS. The transition table (44_state_machine.md R312): the sequence of each state changes OPSTATE as a row of the table
or raises a fault. -/

namespace Sys2Proof.Machine

/-! ## The micro-operations that do not change the state -/

/-- The micro-operations that may change OPSTATE other than by a fault. -/
def movesState : Uop → Bool
  | .fsm | .measRl | .hlRev | .hlFinish | .detect => true
  | _ => false

/-- Every other micro-operation that raises no fault keeps the state. -/
theorem runUop_opstate {u : Uop} {s t : State} (keeps : movesState u = false) (out : runUop u s = .done t) :
    t.ctl.status.opstate = s.ctl.status.opstate := by
  have same {x : State} (control : x.control = s.control) (ends : UopOut.done x = .done t) :
      t.ctl.status.opstate = s.ctl.status.opstate := by
    cases ends
    exact congrArg Control.opstate control
  cases u
  case fsm | measRl | hlRev | hlFinish | detect => cases keeps
  case protect => exact (commonFrame_uopProtect out).opstate
  case hall =>
    rw [show runUop .hall s = uopHall s from rfl] at out
    obtain ⟨x, raised, -⟩ | ⟨x, k, done, -, control⟩ := uopHall_cases s
    · rw [raised] at out; cases out
    · rw [done] at out; cases out
      exact congrArg Control.opstate control
  case warmup => cases out; exact (commonFrame_uopWarmup s).opstate
  case clarksel => cases out; exact (commonFrame_uopClarksel s).opstate
  case track => exact same (uopTrack_control s) out
  case pi => exact same (uopPi_control s) out
  case hlAlign =>
    cases out
    obtain control | control := uopHlAlign_control s <;> exact congrArg Control.opstate control
  case hlFwd =>
    cases out
    obtain control | control := uopHlFwd_control s <;> exact congrArg Control.opstate control
  all_goals cases out; rfl

/-- A sequence of them that raises no fault ends in the state it began in. -/
theorem runSeq_opstate {us : List Uop} {s t : State} (out : runSeq us s = .done t)
    (keeps : ∀ u ∈ us, movesState u = false) : t.ctl.status.opstate = s.ctl.status.opstate := by
  have rule := runSeq_rule (P := fun x => x.ctl.status.opstate = s.ctl.status.opstate) (R := fun _ => True) us s
    (fun u x y mem hx out => ?_) (fun _ _ _ _ _ _ => trivial) rfl
  · obtain ⟨x, ends, hx⟩ | ⟨x, ends, -⟩ := rule <;> rw [out] at ends <;> cases ends
    exact hx
  · have still : movesState u = false := mem.elim (keeps u) (by rintro rfl; rfl)
    exact (runUop_opstate still out).trans hx

/-! ## The sequence of each state -/

/-- Where FSM stays the sequence goes on from the same state. -/
theorem runSeq_of_fsm_stays {us : List Uop} {s : State} (stays : uopFsm s = s) :
    runSeq (.fsm :: us) s = runSeq us s := by
  have out : runUop .fsm s = .done s := congrArg UopOut.done stays
  exact runSeq_of_done out fun ⟨_, moved⟩ => moved rfl

/-- Where FSM enters another state OUTOFF ends the sequence there (44_state_machine.md R303). -/
theorem runSeq_of_fsm_enters {us : List Uop} {s t : State} (enters : uopFsm s = t)
    (moves : t.ctl.status.opstate ≠ s.ctl.status.opstate) : runSeq (.fsm :: us) s = .done (outputsOff t) :=
  enters ▸ runSeq_of_fsm_moves (enters ▸ moves)

/-- Idle's sequence leaves Idle, once ready, for HallRun or for identification (44_state_machine.md R302). -/
theorem idle_moves {m t : State} (idle : m.ctl.status.opstate = .idle) (out : runSeq [.fsm, .outoff] m = .done t) :
    t.ctl.status.opstate = .idle ∨ (t.ctl.status.warmupDone = true ∧ m.ctl.run = true ∧
      (t.ctl.status.opstate = .hallRun ∧ m.ctl.paramsValid = true ∨
        t.ctl.status.opstate = .measuring ∧ m.ctl.paramsValid = false ∧ t.ctl.status.subphase = .rlP1)) := by
  by_cases ready : ReadyToLeaveIdle m
  · obtain ⟨-, warm, run⟩ := id ready
    cases params : m.ctl.paramsValid with
    | true =>
      rw [runSeq_of_fsm_enters (uopFsm_of_paramsValid (.inl ready) params) (idle ▸ nofun)] at out
      cases out
      exact .inr ⟨warm, run, .inl ⟨rfl, rfl⟩⟩
    | false =>
      rw [runSeq_of_fsm_enters (uopFsm_of_ready ready params) (idle ▸ nofun)] at out
      cases out
      exact .inr ⟨warm, run, .inr ⟨rfl, rfl, rfl⟩⟩
  · rw [runSeq_of_fsm_stays (uopFsm_of_stays ready (by simp [idle]))] at out
    cases out
    exact .inl idle

/-- Detecting's sequence goes where the probe code and HT_VALID say (44_state_machine.md R305). -/
theorem detecting_moves {m t : State} (out : runSeq [.detect, .outoff] m = .done t) :
    (t.ctl.status.opstate = .sensorlessRun ∧ (m.ctl.probe.toNat = 6 ∨ m.ctl.probe.toNat = 7)) ∨
      (t.ctl.status.opstate = .hallRun ∧ m.ctl.probe.toNat < 6 ∧ m.ctl.status.htValid = true) ∨
      (t.ctl.status.opstate = .measuring ∧ m.ctl.probe.toNat < 6 ∧ m.ctl.status.htValid = false ∧
        t.ctl.status.subphase = .hlAlign) := by
  obtain ⟨detect, -⟩ | ⟨detect, probe⟩ | ⟨detect, known, probe⟩ | ⟨detect, unknown, probe⟩ := uopDetect_cases m
  · rw [runSeq_of_raised (u := .detect) detect] at out
    cases out
  all_goals
    rw [runSeq_of_done (u := .detect) detect (by simp)] at out
    cases out
  · exact .inl ⟨rfl, probe⟩
  · exact .inr (.inl ⟨rfl, probe, known⟩)
  · exact .inr (.inr ⟨rfl, probe, unknown, rfl⟩)

/-- MEAS_RL stays, or completes with DIRTY in Detecting (45_commissioning.md R336). -/
theorem uopMeasRl_moves (s : State) :
    (uopMeasRl s).ctl.status.opstate = s.ctl.status.opstate ∨
      ((uopMeasRl s).ctl.status.opstate = .detecting ∧ (uopMeasRl s).ctl.status.dirty = true) := by
  have ripple : (measRipple s).ctl.status.opstate = s.ctl.status.opstate := by
    unfold measRipple
    split <;> rfl
  unfold uopMeasRl
  dsimp only
  iterate 3
    split
    · exact .inl rfl
  split
  · exact .inl ripple
  · exact .inr ⟨rfl, rfl⟩

/-- HL_REV stays, or finishes with the table and DIRTY in HallRun (45_commissioning.md R343, R344). -/
theorem uopHlRev_moves (s : State) :
    (uopHlRev s).ctl.status.opstate = s.ctl.status.opstate ∨
      ((uopHlRev s).ctl.status.opstate = .hallRun ∧ (uopHlRev s).ctl.status.htValid = true ∧
        (uopHlRev s).ctl.status.dirty = true) := by
  unfold uopHlRev
  dsimp only
  split
  · exact .inr ⟨rfl, rfl, rfl⟩
  · exact .inl (congrArg Control.opstate (accumulate_control s.ctl.hallRaw s.est.theta s))

/-- The sequence of the backward sweep stays in Measuring or ends with the table in HallRun (45_commissioning.md R343). -/
theorem hlRev_moves {m t : State}
    (out : runSeq ([.hall, .hlRev, .sincos, .inject] ++ driveSeq) m = .done t) :
    t.ctl.status.opstate = m.ctl.status.opstate ∨
      (t.ctl.status.opstate = .hallRun ∧ t.ctl.status.htValid = true ∧ t.ctl.status.dirty = true) := by
  obtain ⟨x, hall, -⟩ | ⟨x, k, hall, -, control⟩ := uopHall_cases m
  · rw [List.cons_append, runSeq_of_raised (u := .hall) hall] at out
    cases out
  · have stays : x.ctl.status.opstate = m.ctl.status.opstate := congrArg Control.opstate control
    rw [List.cons_append, runSeq_of_done (u := .hall) hall (by simp), List.cons_append,
      runSeq_of_done (u := .hlRev) rfl (by simp)] at out
    cases out
    exact stays ▸ uopHlRev_moves x

/-- In Measuring FSM leaves for HallRun on the host's parameters, and the sequence goes on from the same state without
(44_state_machine.md R302, R308). -/
theorem runSeq_fsm_of_measuring {m : State} (measuring : m.ctl.status.opstate = .measuring) (us : List Uop) :
    (m.ctl.paramsValid = true ∧ runSeq (.fsm :: us) m = .done (outputsOff (enterHallRun m))) ∨
      runSeq (.fsm :: us) m = runSeq us m := by
  cases params : m.ctl.paramsValid with
  | true => exact .inl ⟨rfl, runSeq_of_fsm_enters (uopFsm_of_paramsValid (.inr measuring) params) (measuring ▸ nofun)⟩
  | false =>
    exact .inr (runSeq_of_fsm_stays (uopFsm_of_stays (by simp [ReadyToLeaveIdle, measuring]) (by simp [params])))

/-- So without a fault such a sequence ends in HallRun or as its rest does. -/
theorem measuring_fsm {m t : State} {us : List Uop} (measuring : m.ctl.status.opstate = .measuring)
    (out : runSeq (.fsm :: us) m = .done t) :
    (t.ctl.status.opstate = .hallRun ∧ m.ctl.paramsValid = true) ∨ runSeq us m = .done t := by
  obtain ⟨params, enters⟩ | goesOn := runSeq_fsm_of_measuring measuring us
  · rw [enters] at out
    cases out
    exact .inl ⟨rfl, params⟩
  · exact .inr (goesOn ▸ out)

/-- Measuring's sequence leaves it on the host's parameters, at the end of identification, or at the end of the backward
sweep (44_state_machine.md R308, R312; 45_commissioning.md R336, R343). -/
theorem measuring_moves {m t : State} {us : List Uop} (measuring : m.ctl.status.opstate = .measuring)
    (selected : m.seq = some us) (out : runSeq us m = .done t) :
    t.ctl.status.opstate = .measuring ∨ (t.ctl.status.opstate = .hallRun ∧ m.ctl.paramsValid = true) ∨
      (t.ctl.status.opstate = .detecting ∧ t.ctl.status.dirty = true ∧
        (m.ctl.status.subphase = .rlP1 ∨ m.ctl.status.subphase = .rlP2 ∨ m.ctl.status.subphase = .rlL)) ∨
      (t.ctl.status.opstate = .hallRun ∧ m.ctl.status.subphase = .hlRev ∧ t.ctl.status.htValid = true ∧
        t.ctl.status.dirty = true) := by
  rw [State.seq, measuring] at selected
  cases sub : m.ctl.status.subphase <;> rw [sub] at selected
  case rlP1 | rlP2 | rlL =>
    cases selected
    obtain params | out := measuring_fsm measuring out
    · exact .inr (.inl params)
    · cases out
      exact (uopMeasRl_moves m).imp (·.trans measuring) fun ⟨op, dirty⟩ => .inr (.inl ⟨op, dirty, by simp⟩)
  case hlAlign | hlFwd =>
    cases selected
    obtain params | out := measuring_fsm measuring out
    · exact .inr (.inl params)
    · exact .inl ((runSeq_opstate out (by decide)).trans measuring)
  case hlRev =>
    cases selected
    obtain params | out := measuring_fsm measuring out
    · exact .inr (.inl params)
    · exact (hlRev_moves out).imp (·.trans measuring) fun ⟨op, valid, dirty⟩ => .inr (.inr ⟨op, rfl, valid, dirty⟩)
  case reserved6 | reserved7 => cases selected

/-! ## The transition table -/

/-- A fault that a cycle raises from outside Error is a row of the table: it is latched with a code (60_exceptions.md
R402). -/
theorem cycleMoves_of_fault {probe : BitVec 4} {s t : State} (before : LegalOutsideError s) (after : LegalInError t) :
    cycleMoves probe s t := by
  obtain ⟨legal, outside⟩ := before
  obtain ⟨legal', inError⟩ := after
  have unlatched : s.ctl.status.faultLatched = false := eq_false_of_ne_true (mt legal.latchedIffError.mp outside)
  have latched : t.ctl.status.faultLatched = true := legal'.latchedIffError.mpr inError
  have latches : faultBetween s t = true := by simp [faultBetween, unlatched, latched]
  exact .inr <| .inr <| .inr <| .inr <| .inr <| .inr <| .inr <| .inr
    ⟨legal.executes, inError, latches, legal'.codeIffLatched.mpr latched⟩

/-- A state's sequence that raises no fault stays in the state or makes a move of the table, told by what stands before the
cycle (44_state_machine.md R312). -/
theorem cycleMoves_of_done {probe : BitVec 4} {s m t : State} {us : List Uop} (frame : CommonFrame s m)
    (probed : m.ctl.probe = probe) (outside : LegalOutsideError m) (selected : m.seq = some us)
    (out : runSeq us m = .done t) : t.ctl.status.opstate = s.ctl.status.opstate ∨ cycleMoves probe s t := by
  have run : m.ctl.run = s.ctl.run := by rw [frame.ctl]
  have params : m.ctl.paramsValid = s.ctl.paramsValid := by rw [frame.ctl]
  have valid : m.ctl.status.htValid = s.ctl.status.htValid := by rw [frame.status]
  have sub : m.ctl.status.subphase = s.ctl.status.subphase := by rw [frame.status]
  unfold cycleMoves
  rw [← frame.opstate, ← run, ← params, ← valid, ← sub]
  cases op : m.ctl.status.opstate
  case idle =>
    rw [State.seq, op] at selected
    cases selected
    obtain stays | ⟨warm, go, ⟨dst, known⟩ | ⟨dst, unknown, phase⟩⟩ := idle_moves op out
    · exact .inl stays
    · exact .inr <| .inl ⟨rfl, dst, warm, go, known⟩
    · exact .inr <| .inr <| .inl ⟨rfl, dst, warm, go, unknown, phase⟩
  case detecting =>
    rw [State.seq, op] at selected
    cases selected
    obtain ⟨dst, code⟩ | ⟨dst, code, known⟩ | ⟨dst, code, unknown, phase⟩ := detecting_moves out <;> rw [probed] at code
    · have code := code.imp (BitVec.eq_of_toNat_eq (y := 6)) (BitVec.eq_of_toNat_eq (y := 7))
      exact .inr <| .inr <| .inr <| .inr <| .inr <| .inr <| .inl ⟨rfl, dst, code⟩
    · exact .inr <| .inr <| .inr <| .inr <| .inr <| .inr <| .inr <| .inl ⟨rfl, dst, code, known⟩
    · exact .inr <| .inr <| .inr <| .inr <| .inr <| .inr <| .inr <| .inr <| .inl ⟨rfl, dst, code, unknown, phase⟩
  case measuring =>
    obtain stays | ⟨dst, known⟩ | ⟨dst, dirty, phase⟩ | ⟨dst, phase, table, dirty⟩ := measuring_moves op selected out
    · exact .inl stays
    · exact .inr <| .inr <| .inr <| .inl ⟨rfl, dst, known⟩
    · exact .inr <| .inr <| .inr <| .inr <| .inl ⟨rfl, dst, phase, dirty⟩
    · exact .inr <| .inr <| .inr <| .inr <| .inr <| .inl ⟨rfl, dst, phase, table, dirty⟩
  case hallRun | sensorlessRun =>
    rw [State.seq, op] at selected
    cases selected
    exact .inl ((runSeq_opstate out (by decide)).trans op)
  case error => exact absurd op outside.2
  all_goals
    rw [State.seq, op] at selected
    cases selected

/-- Past PROTECT the latched probe code is the port's (40_signal_pipeline.md R161). -/
theorem probe_of_done {p : Ports} {s m : State} (out : uopProtect (beforeProtect (presentPorts p s)) = .done m) :
    m.ctl.probe = p.probe := by
  have latched := commonSeq_samples p s
  rw [out] at latched
  exact congrArg (fun x => x.2.2) latched

/-- A cycle stays in its state or moves as a row of the table (44_state_machine.md R312). -/
theorem fastCycle_moves {p : Ports} {s t : State} (h : s.Inv) (cycle : fastCycle (presentPorts p s) = some t) :
    t.ctl.status.opstate = s.ctl.status.opstate ∨ cycleMoves p.probe s t := by
  obtain ⟨-, -, legal⟩ := s.inv_iff.mp h
  by_cases inError : s.ctl.status.opstate = .error
  · obtain ⟨m, -, -, ends, still⟩ := legal_fastCycle_inError (s := presentPorts p s) ⟨legal, inError⟩
    rw [cycle] at ends
    cases ends
    exact .inl (still.2.trans inError.symm)
  · have outside : LegalOutsideError (presentPorts p s) := ⟨legal, inError⟩
    obtain trip | ⟨us, m, selected, quiet, rfl⟩ := fastCycle_cases cycle <;>
      obtain ⟨x, out, hx⟩ | ⟨x, out, hx⟩ := legalOutsideError_commonSeq outside
    · rw [trip] at out; cases out
    · rw [trip] at out; cases out
      exact .inr (cycleMoves_of_fault outside hx)
    · rw [quiet] at out; cases out
      have frame := commonFrame_of_done quiet
      have still : m.seq = some us := frame.seq.trans selected
      obtain ⟨y, out, hy⟩ | ⟨y, out, hy⟩ := legalOutsideError_runSeq (stateSeq_no_break _ _ us still hx.2) hx <;>
        rw [out]
      · exact cycleMoves_of_done (s := presentPorts p s) frame (probe_of_done quiet) hx still out
      · exact .inr (cycleMoves_of_fault outside hy)
    · rw [quiet] at out; cases out

/-- CMD is the one write-only register (10_state.md R31). -/
theorem Reg.eq_cmd_of_wo {r : Reg} (h : r.access = .wo) : r = .cmd := by
  cases r <;> cases h
  rfl

/-- A well-formed WR writes an RW register or only answers: the commands of a WR to CMD are rows of their own
(30_encoding.md R139). -/
theorem hostWrite_of_wellFormed {a : BitVec 12} {v : Word} (ok : wrOperandsOk a v = true) (s : State) :
    (∃ r : Reg, hostWrite a v s = (r.write v s).respond .ok) ∨ ∃ x, hostWrite a v s = s.respond x := by
  obtain ⟨r, -, -, out⟩ | ⟨r, found, wo, out⟩ | ⟨r, -, -, out⟩ | ⟨-, out⟩ := hostWrite_cases a v s
  · exact .inl ⟨r, out⟩
  · obtain rfl := Reg.eq_cmd_of_wo wo
    obtain rfl : a = cmdAddr := BitVec.eq_of_toNat_eq (Reg.addr_of_ofAddr found).symm
    obtain ⟨noReset, noClear⟩ := (wrOperandsOk_iff cmdAddr v).mp ok
    have bit0 : v.getLsbD 0 = false := eq_false_of_ne_true fun set => noReset ⟨rfl, set⟩
    have bit1 : v.getLsbD 1 = false := eq_false_of_ne_true fun set => noClear ⟨rfl, set⟩
    exact .inr ⟨.ok, by rw [out, runCommands_of_none bit0 bit1]⟩
  · exact .inr ⟨_, out⟩
  · exact .inr ⟨_, out⟩

/-- Settles O49: only a cycle, RESET and the return from Error change OPSTATE, and a cycle moves as its state's sequence
does. -/
theorem transitionTable : Obligations.TransitionTable := by
  intro i s t host wf h ends
  have seen := h.resetSeen
  cases i
  case rd a =>
    rw [exec_rd_of_seen seen] at ends
    cases ends
    obtain ⟨r, -, out⟩ | ⟨-, out⟩ := hostRead_cases a s <;> rw [out] <;> exact .inl rfl
  case wr a v =>
    rw [exec_wr_of_seen seen] at ends
    cases ends
    obtain ⟨r, out⟩ | ⟨x, out⟩ := hostWrite_of_wellFormed wf s <;> rw [out]
    · obtain ⟨control, -⟩ := r.write_keeps v s
      exact .inl (congrArg Control.opstate control)
    · exact .inl rfl
  case tick =>
    obtain ⟨u, cycle, rfl⟩ := exec_tick_next ends
    exact fastCycle_moves h cycle
  case reset =>
    cases ends
    exact .inr rfl
  case faultReset clr ign =>
    unfold exec execFaultReset at ends
    obtain ⟨-, ran⟩ := afterReset_next ends
    have left : t.ctl.status.opstate = (leaveError s).ctl.status.opstate := by
      cases ran
      split <;> rfl
    obtain ⟨inError, out⟩ | ⟨-, out⟩ := leaveError_cases s <;> rw [out] at left
    · exact .inr ⟨inError, left⟩
    · exact .inl left
  case clearDirty ign =>
    rw [exec_clearDirty_of_seen seen] at ends
    cases ends
    exact .inl rfl
  all_goals cases host

end Sys2Proof.Machine
end

section
/-! PROOFS. The fast cycle against its tables of instructions (44_state_machine.md R291 to R293, R303): a sequence of
micro-operations is the instructions of the same rows, run one by one. -/

namespace Sys2Proof.Machine

/-! ## The tables -/

/-- The common sequence's instructions are those of its micro-operations (44_state_machine.md R291). -/
theorem commonInstrs_eq (s : State) : commonInstrs s = (commonSeq s).map uopInstr := by
  unfold commonInstrs commonSeq
  split <;> rfl

/-- So are those of each state's sequence (44_state_machine.md R292). -/
theorem stateInstrs_eq (st : OpState) (sub : SubPhase) : stateInstrs st sub = (stateSeq st sub).map (List.map uopInstr) := by
  cases st
  case measuring => cases sub <;> rfl
  all_goals rfl

/-- FSM is the row of one micro-operation. -/
theorem uopInstr_eq_fsm {u : Uop} : uopInstr u = .fsm ↔ u = .fsm := by
  cases u <;> simp [uopInstr]

/-! ## Faults within a sequence -/

/-- A fault raised from a state without one is latched between the two. -/
theorem faultBetween_of_raised {u : Uop} {s t : State} (unlatched : s.ctl.status.faultLatched = false)
    (out : runUop u s = .raised t) : faultBetween s t = true := by
  obtain ⟨-, latched⟩ := runUop_raised_status out
  simp [faultBetween, unlatched, latched]

/-- A micro-operation that raises no fault keeps the latch (60_exceptions.md R403). -/
theorem runUop_latch {u : Uop} {s t : State} (out : runUop u s = .done t) :
    t.ctl.status.faultLatched = s.ctl.status.faultLatched := by
  have rule := runUop_snapshot u s
  rw [out] at rule
  exact rule.2

/-- So no fault is latched between the two. -/
theorem faultBetween_of_latch {s t : State} (same : t.ctl.status.faultLatched = s.ctl.status.faultLatched) :
    faultBetween s t = false := by
  simp [faultBetween, same]

/-- A sequence that raises no fault keeps the latch. -/
theorem runSeq_latch {us : List Uop} {s t : State} (out : runSeq us s = .done t) :
    t.ctl.status.faultLatched = s.ctl.status.faultLatched := by
  have rule := runSeq_rule (P := fun x => x.ctl.status.faultLatched = s.ctl.status.faultLatched) (R := fun _ => True) us s
    (fun _ _ _ _ kept out => (runUop_latch out).trans kept) (fun _ _ _ _ _ _ => trivial) rfl
  obtain ⟨x, ends, kept⟩ | ⟨x, ends, -⟩ := rule <;> rw [out] at ends <;> cases ends
  exact kept

/-- PROTECT raises no fault while one is latched; of the others HALL and DETECT alone can (41_protection.md R201). -/
theorem unlatched_of_raised {u : Uop} {s t : State} (notHall : u ≠ .hall) (notDetect : u ≠ .detect)
    (out : runUop u s = .raised t) : s.ctl.status.faultLatched = false := by
  obtain ⟨-, ⟨-, unlatched⟩, -⟩ | ⟨hall, -⟩ | ⟨detect, -⟩ := runUop_raised_cases out
  · exact unlatched
  · exact absurd hall notHall
  · exact absurd detect notDetect

/-! ## A sequence, instruction by instruction -/

/-- Where every fault raised is one that was not latched before, a sequence is its instructions run one by one
(44_state_machine.md R293, R303). -/
theorem runsTo_runSeq {us : List Uop} {s : State}
    (fresh : s.ctl.status.faultLatched = false ∨ (.hall ∉ us ∧ .detect ∉ us)) :
    RunsTo (us.map uopInstr) s (runSeq us s).state := by
  induction us generalizing s with
  | nil => rfl
  | cons u us ih =>
    refine ⟨(runUop u s).state, exec_uopInstr u s, ?_⟩
    cases out : runUop u s with
    | raised t =>
      have unlatched : s.ctl.status.faultLatched = false := fresh.elim id fun ⟨hall, detect⟩ =>
        unlatched_of_raised (List.ne_of_not_mem_cons hall).symm (List.ne_of_not_mem_cons detect).symm out
      rw [runSeq_of_raised out]
      exact (if_pos (faultBetween_of_raised unlatched out)).mpr rfl
    | done t =>
      have quiet : ¬ faultBetween s t = true := by simp [faultBetween_of_latch (runUop_latch out)]
      refine (if_neg quiet).mpr ?_
      by_cases moves : u = .fsm ∧ t.ctl.status.opstate ≠ s.ctl.status.opstate
      · obtain ⟨rfl, moved⟩ := moves
        cases out
        rw [runSeq_of_fsm_moves moved]
        exact (if_pos ⟨rfl, moved⟩).mpr rfl
      · rw [runSeq_of_done out moves]
        refine (if_neg (by rwa [uopInstr_eq_fsm])).mpr (ih ?_)
        exact fresh.imp ((runUop_latch out).trans ·) fun ⟨hall, detect⟩ =>
          ⟨List.not_mem_of_not_mem_cons hall, List.not_mem_of_not_mem_cons detect⟩

/-- The common sequence holds neither HALL nor DETECT (44_state_machine.md R291). -/
theorem hall_detect_notMem_commonSeq (s : State) : .hall ∉ commonSeq s ∧ .detect ∉ commonSeq s := by
  unfold commonSeq
  split <;> decide

/-- The common sequence is its instructions run one by one. -/
theorem runsTo_commonInstrs (s : State) : RunsTo (commonInstrs s) s (uopProtect (beforeProtect s)).state := by
  rw [commonInstrs_eq, ← runSeq_commonSeq]
  exact runsTo_runSeq (.inr (hall_detect_notMem_commonSeq s))

/-- In Error the state's sequence holds neither HALL nor DETECT (44_state_machine.md R300). -/
theorem hall_detect_notMem_errorSeq {s : State} {us : List Uop} (inError : s.ctl.status.opstate = .error)
    (selected : s.seq = some us) : .hall ∉ us ∧ .detect ∉ us := by
  rw [State.seq, inError] at selected
  cases selected
  decide

/-- The sequence of a state whose latch says whether it is Error is its instructions run one by one. -/
theorem runsTo_stateInstrs {m : State} {us : List Uop} (selected : m.seq = some us)
    (latch : m.ctl.status.faultLatched = true ↔ m.ctl.status.opstate = .error) :
    ∃ is, stateInstrs m.ctl.status.opstate m.ctl.status.subphase = some is ∧ RunsTo is m (runSeq us m).state := by
  have table : stateInstrs m.ctl.status.opstate m.ctl.status.subphase = some (us.map uopInstr) := by
    rw [stateInstrs_eq, show stateSeq m.ctl.status.opstate m.ctl.status.subphase = some us from selected, Option.map_some]
  refine ⟨us.map uopInstr, table, runsTo_runSeq ?_⟩
  by_cases inError : m.ctl.status.opstate = .error
  · exact .inr (hall_detect_notMem_errorSeq inError selected)
  · exact .inl (eq_false_of_ne_true (mt latch.mp inError))

/-- A PROTECT that raises latches its fault in this cycle, since none was latched before it (41_protection.md R201). -/
theorem faultBetween_of_trip {s t : State} (trip : uopProtect (beforeProtect s) = .raised t) : faultBetween s t = true := by
  have frame := commonFrame_beforeProtect s
  have unlatched := unlatched_of_raised (u := .protect) nofun nofun trip
  rw [frame.status] at unlatched
  obtain ⟨-, latched⟩ := runUop_raised_status (u := .protect) trip
  simp [faultBetween, latched, show s.ctl.status.faultLatched = false from unlatched]

/-- A PROTECT that raises no fault leaves the latch as before the cycle. -/
theorem latch_of_quiet {s m : State} (quiet : uopProtect (beforeProtect s) = .done m) :
    m.ctl.status.faultLatched = s.ctl.status.faultLatched := by
  rw [(commonFrame_of_done quiet).status]

/-- Settles O48: the two ways a cycle ends, each instruction by instruction. -/
theorem tickRunsTheTable : Obligations.TickRunsTheTable := by
  intro s hwbrk probe hall ia ib ic vbus seen executes latch
  let s' := presentPorts ⟨⟨ia, ib, ic, vbus⟩, hall, probe, hwbrk⟩ s
  obtain ⟨t, cycle⟩ := fastCycle_of_executing (s := s') executes
  refine ⟨(uopProtect (beforeProtect s')).state, t, runsTo_commonInstrs s', ?_, exec_tick_of_cycle seen cycle⟩
  obtain trip | ⟨us, m, selects, quiet, rfl⟩ := fastCycle_cases cycle
  · rw [trip]
    exact (if_pos (faultBetween_of_trip trip)).mpr rfl
  · rw [quiet]
    have still := latch_of_quiet quiet
    have frame := commonFrame_of_done quiet
    have latch' : m.ctl.status.faultLatched = true ↔ m.ctl.status.opstate = .error := by
      rw [still, frame.opstate]
      exact latch
    exact (if_neg (ne_true_of_eq_false (faultBetween_of_latch still))).mpr
      (runsTo_stateInstrs (frame.seq.trans selects) latch')

end Sys2Proof.Machine
end

section
/-! PROOFS. Cycles with a fault, and cycles in Error (44_state_machine.md R293, R300; 60_exceptions.md R402): what they leave
alone. -/

namespace Sys2Proof.Machine

/-! ## Where a sequence raises its fault -/

/-- The micro-operations that can raise a fault (41_protection.md R201, 42_estimator.md R220, 44_state_machine.md R305). -/
def mayRaise : Uop → Bool
  | .protect | .hall | .detect => true
  | _ => false

/-- No other micro-operation raises one. -/
theorem mayRaise_of_raised {u : Uop} {s t : State} (out : runUop u s = .raised t) : mayRaise u = true := by
  obtain ⟨rfl, -⟩ | ⟨rfl, -⟩ | ⟨rfl, -⟩ := runUop_raised_cases out <;> rfl

/-- A sequence of others raises none. -/
theorem runSeq_done_of_quiet {us : List Uop} (quiet : ∀ u ∈ us, mayRaise u = false) (s : State) :
    ∃ t, runSeq us s = .done t := by
  have never (u : Uop) (x y : State) (mem : u ∈ us ∨ u = .outoff) (_ : True) (out : runUop u x = .raised y) : False := by
    have raises := mayRaise_of_raised out
    obtain mem | rfl := mem
    · rw [quiet u mem] at raises
      cases raises
    · cases raises
  obtain ⟨t, out, -⟩ | ⟨-, -, no⟩ := runSeq_rule (P := fun _ => True) us s (fun _ _ _ _ _ _ => trivial) never trivial
  · exact ⟨t, out⟩
  · exact no.elim

/-- A sequence in which only the first micro-operation can raise a fault raises it there. -/
theorem runUop_raised_of_head {u : Uop} {us : List Uop} {s t : State} (out : runSeq (u :: us) s = .raised t)
    (quiet : ∀ v ∈ us, mayRaise v = false) : runUop u s = .raised t := by
  cases first : runUop u s with
  | raised x =>
    rw [runSeq_of_raised first] at out
    rw [UopOut.raised.inj out]
  | done x =>
    by_cases moves : u = .fsm ∧ x.ctl.status.opstate ≠ s.ctl.status.opstate
    · obtain ⟨rfl, moved⟩ := moves
      cases first
      rw [runSeq_of_fsm_moves moved] at out
      cases out
    · obtain ⟨y, ends⟩ := runSeq_done_of_quiet quiet x
      rw [runSeq_of_done first moves, ends] at out
      cases out

/-- HALL and DETECT raise their faults at the state they find. -/
theorem raiseFault_of_raised {u : Uop} {s t : State} (out : runUop u s = .raised t) (notProtect : u ≠ .protect) :
    ∃ code, code ≠ .none ∧ t = raiseFault code s := by
  obtain ⟨protect, -⟩ | ⟨-, rfl⟩ | ⟨-, rfl⟩ := runUop_raised_cases out
  · exact absurd protect notProtect
  · refine ⟨_, ?_, rfl⟩
    unfold invalidHallCode
    split <;> decide
  · exact ⟨_, by decide, rfl⟩

/-- A state's sequence raises a fault at the state it begins in: HALL and DETECT come first, or after an FSM that did nothing
(44_state_machine.md R292). -/
theorem stateSeq_raised {m t : State} {us : List Uop} (selected : m.seq = some us) (out : runSeq us m = .raised t) :
    ∃ code, code ≠ .none ∧ t = raiseFault code m := by
  rw [State.seq] at selected
  cases op : m.ctl.status.opstate <;> rw [op] at selected
  case measuring =>
    have first {v : Uop} {vs : List Uop} (out : runSeq (.fsm :: v :: vs) m = .raised t)
        (quiet : ∀ w ∈ vs, mayRaise w = false) (notProtect : v ≠ .protect) :
        ∃ code, code ≠ .none ∧ t = raiseFault code m := by
      obtain ⟨-, enters⟩ | goesOn := runSeq_fsm_of_measuring op (v :: vs)
      · rw [enters] at out
        cases out
      · exact raiseFault_of_raised (runUop_raised_of_head (goesOn ▸ out) quiet) notProtect
    cases sub : m.ctl.status.subphase <;> rw [sub] at selected <;> cases selected <;>
      exact first out (by decide) nofun
  all_goals
    cases selected
  all_goals exact raiseFault_of_raised (runUop_raised_of_head out (by decide)) nofun

/-! ## A cycle that latches a fault -/

/-- What a tripping PROTECT does before it takes its fault keeps to the common sequence's frame (41_protection.md R201). -/
theorem commonFrame_snapshot (s : State) : CommonFrame s (snapshotRaw (countViolation s)) :=
  ⟨rfl, rfl, rfl, rfl, rfl, rfl, rfl, rfl⟩

/-- A fault was latched between two states exactly when the second has a latched fault and the first has none. -/
theorem faultBetween_iff (s t : State) :
    faultBetween s t = true ↔ t.ctl.status.faultLatched = true ∧ s.ctl.status.faultLatched = false := by
  simp [faultBetween]

/-- After a quiet PROTECT a cycle that latches a fault raises it in the state's sequence, at its start. -/
theorem faults_of_quiet {s m : State} {us : List Uop} (selected : s.seq = some us)
    (quiet : uopProtect (beforeProtect s) = .done m) (latches : faultBetween s (runSeq us m).state = true) :
    ∃ code, code ≠ .none ∧ (runSeq us m).state = raiseFault code m := by
  cases out : runSeq us m with
  | done x =>
    have same := (runSeq_latch out).trans (latch_of_quiet quiet)
    rw [out, UopOut.state, faultBetween_of_latch same] at latches
    cases latches
  | raised x => exact stateSeq_raised ((commonFrame_of_done quiet).seq.trans selected) out

/-- A cycle that latches a fault takes it at a state within the common sequence's frame (44_state_machine.md R293). -/
theorem fastCycle_faults {s t : State} (cycle : fastCycle s = some t) (latches : faultBetween s t = true) :
    ∃ code x, code ≠ .none ∧ CommonFrame s x ∧ t = raiseFault code x := by
  obtain trip | ⟨us, m, selected, quiet, rfl⟩ := fastCycle_cases cycle
  · obtain ⟨-, -, rfl⟩ | ⟨no, -⟩ | ⟨no, -⟩ := runUop_raised_cases (u := .protect) trip
    · exact ⟨.overLimit, _, by decide, (commonFrame_beforeProtect s).trans (commonFrame_snapshot _), rfl⟩
    · cases no
    · cases no
  · obtain ⟨code, named, fault⟩ := faults_of_quiet selected quiet latches
    exact ⟨code, m, named, commonFrame_of_done quiet, fault⟩

/-- The frame keeps the fault code and LAST_HALL. -/
theorem CommonFrame.code_lastHall {s x : State} (h : CommonFrame s x) :
    x.ctl.code = s.ctl.code ∧ x.ctl.lastHall = s.ctl.lastHall := by
  rw [h.ctl]
  exact ⟨rfl, rfl⟩

/-- What the controller keeps of the common sequence's frame when the phases are then disabled. -/
theorem CommonFrame.foc_off {s x : State} {f : Foc} (h : CommonFrame s x)
    (off : f = { x.foc with phaseEn := Phase.all false }) :
    f.phaseEn = ⟨false, false, false⟩ ∧ f.ccr = s.foc.ccr ∧ f.vd = s.foc.vd ∧ f.vq = s.foc.vq ∧ f.intD = s.foc.intD ∧
      f.intQ = s.foc.intQ ∧ f.piCnt = s.foc.piCnt ∧ f.sin = s.foc.sin ∧ f.cos = s.foc.cos ∧ f.vAlpha = s.foc.vAlpha ∧
      f.vBeta = s.foc.vBeta ∧ f.vph = s.foc.vph := by
  rw [off, h.foc]
  exact ⟨rfl, rfl, rfl, rfl, rfl, rfl, rfl, rfl, rfl, rfl, rfl, rfl⟩

/-- A sequence changes no register but those its micro-operations may write. -/
theorem regsFixedBut_runSeq {ws : List Reg} {us : List Uop} (written : ∀ u ∈ .outoff :: us, uopWrites u ⊆ ws) (s : State) :
    RegsFixedBut ws s (runSeq us s).state :=
  runSeq_keeps (P := RegsFixedBut ws s) us s
    (fun u x mem kept r other =>
      (regsFixedBut_runUop u x r fun w => other (written u (List.mem_cons.mpr mem.symm) w)).trans (kept r other))
    (.refl ws s)

/-- The registers that a faulting cycle may change (60_exceptions.md R405). -/
def faultWrites : List Reg :=
  [.status, .fault, .fraw 0, .fraw 1, .fraw 2, .fraw 3, .hallio, .raw 0, .raw 1, .raw 2, .raw 3, .phys 0, .phys 1,
    .phys 2, .phys 3, .warmupCnt, .wsum 0, .wsum 1, .wsum 2, .offset 0, .offset 1, .offset 2, .iAlpha, .iBeta, .iD,
    .iQ, .idReq, .iqReq, .phaseEn]

/-- The common sequence changes none but these. -/
theorem regsFixedBut_commonSeq (s : State) : RegsFixedBut faultWrites s (uopProtect (beforeProtect s)).state := by
  rw [← runSeq_commonSeq]
  refine regsFixedBut_runSeq ?_ s
  unfold commonSeq
  split <;> decide

/-- A cycle that latches a fault changes none but these. -/
theorem regsFixedBut_of_fault {s t : State} (cycle : fastCycle s = some t) (latches : faultBetween s t = true) :
    RegsFixedBut faultWrites s t := by
  have common := regsFixedBut_commonSeq s
  obtain trip | ⟨us, m, selected, quiet, rfl⟩ := fastCycle_cases cycle
  · rw [trip] at common
    exact common
  · rw [quiet] at common
    obtain ⟨code, -, fault⟩ := faults_of_quiet selected quiet latches
    obtain ⟨regs, -⟩ := uopFrame_raiseFault code m
    rw [fault]
    exact (common.trans regs).mono (by decide)

/-- A TICK changes no register that its cycle does not. -/
theorem RegsFixedBut.of_tick {ws : List Reg} {p : Ports} {s t : State} (h : RegsFixedBut ws (presentPorts p s) t) :
    RegsFixedBut ws s (endTick t) :=
  fun r other => (r.read_endTick t).trans ((h r other).trans (r.read_presentPorts p s))

/-- Settles O54: the fault is taken at a state within the common sequence's frame. -/
theorem faultingCycleIsPrecise : Obligations.FaultingCycleIsPrecise := by
  intro s t hwbrk probe hall ia ib ic vbus h ends latches
  obtain ⟨u, cycle, rfl⟩ := exec_tick_next ends
  have regs := (regsFixedBut_of_fault cycle latches).of_tick
  obtain ⟨code, x, named, frame, rfl⟩ := fastCycle_faults cycle latches
  have fresh : x.ctl.status.faultLatched = false := by
    obtain ⟨-, unlatched⟩ := (faultBetween_iff s _).mp latches
    rw [frame.status]
    exact unlatched
  obtain ⟨-, est, mot, com, -, -, -⟩ := raiseFault_frame code x
  obtain ⟨status, latch, -⟩ := raiseFault_enters code x
  obtain ⟨off, ccr, vd, vq, intD, intQ, piCnt, sin, cos, vAlpha, vBeta, vph⟩ := frame.foc_off (raiseFault_foc code x)
  refine ⟨congrArg Status.opstate status, ?code, off, congrArg Status.swBrk status, ccr, est.trans frame.est,
    mot.trans frame.mot, com.trans frame.com, vd, vq, intD, intQ, piCnt, sin, cos, vAlpha, vBeta, vph, ?lastHall, ?status,
    regs⟩
  case code => exact (latch.trans (if_neg (ne_true_of_eq_false fresh))).trans_ne named
  case lastHall =>
    exact (congrArg Control.lastHall (raiseFault_control code x)).trans frame.code_lastHall.2
  case status =>
    have kept := frame.status
    have ended : (endTick (raiseFault code x)).ctl.status = (raiseFault code x).ctl.status := rfl
    rw [ended, status, kept]
    rfl

/-! ## A cycle in Error -/

/-- Past Idle a cycle does not warm up (44_state_machine.md R291). -/
theorem beforeProtect_of_past_idle {s : State} (outsideIdle : s.ctl.status.opstate ≠ .idle) :
    beforeProtect s = uopPark (uopClarksel (uopConvert (uopSample s))) :=
  congrArg (fun x => uopPark (uopClarksel x)) (if_neg fun ⟨idle, _⟩ => outsideIdle idle)

/-- What a cycle does before PROTECT keeps the violation count and the references, and past Idle WARMUP_DONE
(44_state_machine.md R291). -/
theorem beforeProtect_keeps {s : State} (outsideIdle : s.ctl.status.opstate ≠ .idle) :
    (beforeProtect s).ctl.status.warmupDone = s.ctl.status.warmupDone ∧ (beforeProtect s).ctl.violCnt = s.ctl.violCnt ∧
      (beforeProtect s).foc.idReq = s.foc.idReq ∧ (beforeProtect s).foc.iqReq = s.foc.iqReq := by
  obtain ⟨v, alpha, beta, current⟩ := uopClarksel_eq (uopConvert (uopSample s))
  rw [beforeProtect_of_past_idle outsideIdle, current]
  exact ⟨rfl, rfl, rfl, rfl⟩

/-- What PROTECT without a fault does past Idle: it keeps WARMUP_DONE, and clears the violation count and keeps the
references, or counts (41_protection.md R201). -/
theorem protect_of_done {s m : State} (outsideIdle : s.ctl.status.opstate ≠ .idle)
    (out : uopProtect (beforeProtect s) = .done m) :
    m.ctl.status.warmupDone = s.ctl.status.warmupDone ∧
      ((m.ctl.violCnt = 0 ∧ m.foc.idReq = s.foc.idReq ∧ m.foc.iqReq = s.foc.iqReq) ∨
        m.ctl.violCnt.toNat = min (s.ctl.violCnt.toNat + 1) 255) := by
  obtain ⟨warm, count, idReq, iqReq⟩ := beforeProtect_keeps outsideIdle
  by_cases viol : (beforeProtect s).violation = true
  · by_cases trips : Trips (beforeProtect s)
    · rw [uopProtect_of_trips viol trips] at out
      cases out
    · rw [uopProtect_of_not_trips viol trips] at out
      cases out
      exact ⟨warm, .inr (count ▸ countViolation_violCnt (beforeProtect s))⟩
  · rw [uopProtect_of_not_violation viol] at out
    cases out
    exact ⟨warm, .inl ⟨rfl, idReq, iqReq⟩⟩

/-- The registers that a cycle in Error may change, FRAW and PHASE_EN apart (44_state_machine.md R300). -/
def errorWrites : List Reg :=
  [.status, .fault, .hallio, .raw 0, .raw 1, .raw 2, .raw 3, .phys 0, .phys 1, .phys 2, .phys 3, .iAlpha, .iBeta,
    .iD, .iQ, .idReq, .iqReq]

/-- Past Idle the common sequence and BREAK change none but these, FRAW and PHASE_EN. -/
theorem regsFixedBut_errorCycle {s m : State} (outsideIdle : s.ctl.status.opstate ≠ .idle)
    (out : uopProtect (beforeProtect s) = .done m) :
    RegsFixedBut (errorWrites ++ [.fraw 0, .fraw 1, .fraw 2, .fraw 3, .phaseEn]) s (softwareBreak m) := by
  have sequence : commonSeq s = [.sample, .convert, .clarksel, .park, .protect] := if_neg fun ⟨idle, _⟩ => outsideIdle idle
  have common := regsFixedBut_runSeq (us := commonSeq s) (ws := errorWrites ++ [.fraw 0, .fraw 1, .fraw 2, .fraw 3, .phaseEn])
    (by rw [sequence]; decide) s
  rw [runSeq_commonSeq, out] at common
  obtain ⟨broken, -⟩ := uopFrame_softwareBreak m
  exact (common.trans broken).mono (by decide)

/-- A frame may drop registers that did not change. -/
theorem RegsFixedBut.drop {ws vs : List Reg} {s t : State} (h : RegsFixedBut (ws ++ vs) s t)
    (same : ∀ r ∈ vs, r.read t = r.read s) : RegsFixedBut ws s t := by
  intro r other
  by_cases mem : r ∈ vs
  · exact same r mem
  · exact h r fun m => (List.mem_append.mp m).elim other mem

/-- FRAW reads the snapshot. -/
theorem Reg.read_fraw_eq {s t : State} (same : t.ctl.fraw = s.ctl.fraw) (k : Fin 4) :
    (Reg.fraw k).read t = (Reg.fraw k).read s :=
  congrArg (fun x : Chan Half => (x.get k).setWidth 32) same

/-- PHASE_EN reads the enables. -/
theorem Reg.read_phaseEn_eq {s t : State} (same : t.foc.phaseEn = s.foc.phaseEn) :
    Reg.phaseEn.read t = Reg.phaseEn.read s := by
  unfold Reg.read
  dsimp only
  rw [same]

/-- While a fault is latched a cycle takes no snapshot (41_protection.md R202). -/
theorem fastCycle_fraw_of_latched {s t : State} (latched : s.ctl.status.faultLatched = true)
    (cycle : fastCycle s = some t) : t.ctl.fraw = s.ctl.fraw := by
  obtain kept | ⟨-, -, latches⟩ := fastCycle_snapshot cycle
  · exact kept
  · obtain ⟨-, unlatched⟩ := (faultBetween_iff s t).mp latches
    rw [latched] at unlatched
    cases unlatched

/-- Settles O56: the cycle in Error is the common sequence without a fault, and BREAK. -/
theorem errorCycleOnlyBreaks : Obligations.ErrorCycleOnlyBreaks := by
  intro s hwbrk probe hall ia ib ic vbus h inError
  obtain ⟨seen, -, legal⟩ := s.inv_iff.mp h
  let s' := presentPorts ⟨⟨ia, ib, ic, vbus⟩, hall, probe, hwbrk⟩ s
  have latched : s'.ctl.status.faultLatched = true := legal.latchedIffError.mpr inError
  have broken : s'.ctl.status.swBrk = true := legal.breakIffError.mpr inError
  have outsideIdle : s'.ctl.status.opstate ≠ .idle := inError ▸ nofun
  obtain ⟨m, quiet, -, cycle, -⟩ := legal_fastCycle_inError (s := s') ⟨legal, inError⟩
  have frame := commonFrame_of_done quiet
  obtain ⟨code, lastHall⟩ := frame.code_lastHall
  obtain ⟨off, ccr, vd, vq, intD, intQ, piCnt, sin, cos, vAlpha, vBeta, vph⟩ :=
    frame.foc_off (f := (softwareBreak m).foc) rfl
  obtain ⟨warm, protects⟩ := protect_of_done outsideIdle quiet
  have fraw := fastCycle_fraw_of_latched latched cycle
  have same (r : Reg) (mem : r ∈ [Reg.fraw 0, .fraw 1, .fraw 2, .fraw 3, .phaseEn]) :
      r.read (softwareBreak m) = r.read s' := by
    simp only [List.mem_cons, List.not_mem_nil, or_false] at mem
    obtain rfl | rfl | rfl | rfl | rfl := mem
    case inr.inr.inr.inr => exact Reg.read_phaseEn_eq (off.trans (legal.errorIsOff inError).symm)
    all_goals exact Reg.read_fraw_eq fraw _
  refine ⟨endTick (softwareBreak m), exec_tick_of_cycle seen cycle, frame.opstate.trans inError, code, fraw, off, rfl, ccr,
    frame.est, frame.mot, frame.com, ?count, vd, vq, intD, intQ, piCnt, sin, cos, vAlpha, vBeta, vph, ?status, lastHall,
    fun cleared => ?references, ((regsFixedBut_errorCycle outsideIdle quiet).drop same).of_tick⟩
  case count => exact protects.imp (·.1) id
  case references =>
    obtain ⟨-, references⟩ | counted := protects
    · exact references
    · have zero : m.ctl.violCnt.toNat = 0 := congrArg BitVec.toNat (show m.ctl.violCnt = 0 from cleared)
      omega
  case status =>
    have ended : (endTick (softwareBreak m)).ctl.status = { m.ctl.status with swBrk := true } := rfl
    have kept : m.ctl.status =
        { s.ctl.status with hwBrk := m.ctl.status.hwBrk, clarkVar := m.ctl.status.clarkVar } :=
      frame.status.trans (congrArg (fun w =>
        { s.ctl.status with hwBrk := m.ctl.status.hwBrk, warmupDone := w, clarkVar := m.ctl.status.clarkVar }) warm)
    have stays : m.ctl.status.swBrk = true := by
      rw [kept]
      exact broken
    rw [ended, ← stays]
    exact kept

end Sys2Proof.Machine
end

section
/-! PROOFS. What the host's transactions change beside a cycle (70_reset_and_hazards.md R464), and the reference host's
programs (46_host_interface.md R385 to R392): the slow-loop step and the storage's round trip. -/

namespace Sys2Proof.Machine

/-! ## The output ports -/

/-- The output ports are the same (70_reset_and_hazards.md R464). -/
def OutputsFixed (s t : State) : Prop := t.outCcr = s.outCcr ∧ t.outEn = s.outEn ∧ t.outSwbrk = s.outSwbrk

/-- No register that a host writes is an output port (10_state.md R85). -/
theorem outputsFixed_write (r : Reg) (v : Word) (s : State) : OutputsFixed s (r.write v s) := by
  simp only [OutputsFixed, State.outCcr, State.outEn, State.outSwbrk, Reg.write_foc, Reg.write_ctl, and_self]

/-- A host read leaves the output ports. -/
theorem outputsFixed_hostRead (a : BitVec 12) (s : State) : OutputsFixed s (hostRead a s) := by
  obtain ⟨r, -, out⟩ | ⟨-, out⟩ := hostRead_cases a s <;> rw [out] <;> exact ⟨rfl, rfl, rfl⟩

/-- A well-formed host write leaves them. -/
theorem outputsFixed_hostWrite {a : BitVec 12} {v : Word} (ok : wrOperandsOk a v = true) (s : State) :
    OutputsFixed s (hostWrite a v s) := by
  obtain ⟨r, out⟩ | ⟨x, out⟩ := hostWrite_of_wellFormed ok s <;> rw [out]
  · exact outputsFixed_write r v s
  · exact ⟨rfl, rfl, rfl⟩

/-- The return from Error leaves them but for the software break, which it may lower (46_host_interface.md R376). -/
theorem outputs_leaveError (s : State) :
    (leaveError s).outCcr = s.outCcr ∧ (leaveError s).outEn = s.outEn ∧
      ((leaveError s).outSwbrk = s.outSwbrk ∨ (leaveError s).outSwbrk = false) := by
  obtain ⟨-, out⟩ | ⟨-, out⟩ := leaveError_cases s <;> rw [out]
  · exact ⟨rfl, rfl, .inr rfl⟩
  · exact ⟨rfl, rfl, .inl rfl⟩

/-- Settles O58: by what each of the four transactions does. -/
theorem outputsChangeOnlyInCycles : Obligations.OutputsChangeOnlyInCycles := by
  intro i s t ends host wf notReset notTick
  cases i
  case rd a =>
    unfold exec execRd at ends
    obtain ⟨-, ran⟩ := afterReset_next ends
    cases ran
    obtain ⟨ccr, en, brk⟩ := outputsFixed_hostRead a s
    exact ⟨ccr, en, .inl brk⟩
  case wr a v =>
    unfold exec execWr at ends
    obtain ⟨-, ran⟩ := afterReset_next ends
    cases ran
    obtain ⟨ccr, en, brk⟩ := outputsFixed_hostWrite wf s
    exact ⟨ccr, en, .inl brk⟩
  case tick => exact absurd rfl (notTick _ _ _ _ _ _ _)
  case reset => exact absurd rfl notReset
  case faultReset clr ign =>
    unfold exec execFaultReset at ends
    obtain ⟨-, ran⟩ := afterReset_next ends
    obtain ⟨ccr, en, brk⟩ := outputs_leaveError s
    have left : OutputsFixed (leaveError s) t := by
      cases ran
      split <;> exact ⟨rfl, rfl, rfl⟩
    obtain ⟨ccr', en', brk'⟩ := left
    exact ⟨ccr'.trans ccr, en'.trans en, brk.imp brk'.trans fun low => ⟨⟨clr, ign, rfl⟩, brk'.trans low⟩⟩
  case clearDirty =>
    unfold exec execClearDirty at ends
    obtain ⟨-, ran⟩ := afterReset_next ends
    cases ran
    exact ⟨rfl, rfl, .inl rfl⟩
  all_goals cases host

/-! ## The slow loop -/

/-- A read runs as the rest of its program does on the register's value (46_host_interface.md R370). -/
theorem HostProg.run_rd_of_rest {α : Type} {r : Reg} {k : Word → HostProg α} {s : State} {x : Option (α × State)}
    (seen : s.resetSeen = true) (rest : (k (r.read s)).run (s.respond (.data (r.read s))) = x) :
    (HostProg.rd r k).run s = x :=
  (HostProg.run_rd r k seen).trans rest

/-- What a slow-loop step leaves, with the throttle's reference `iq`, from the field-weakening part on
(46_host_interface.md R388 to R390). -/
structure EndsSlowStep (q : Nat → BitVec 23) (h : SlowHost) (iq : Word) (s t : State) : Prop where
  gain : t.ctl.vabToPwm = h.vabToPwm
  regs : RegsFixedBut [.vabToPwm, .idReq, .iqReq] s t
  idReq : t.foc.idReq = fieldWeakening q h s.foc.vq s.foc.vqMax
  iqReq : t.foc.iqReq = powerLimited q h s.foc.vd s.foc.vq (fieldWeakening q h s.foc.vq s.foc.vqMax) iq

/-- The writes that end a step store the gain and the references and nothing else (46_host_interface.md R390). -/
theorem slowWrites_run (h : SlowHost) (id iq : Word) {s : State} (seen : s.resetSeen = true) :
    ∃ t, (slowWrites h id iq).run s = some (h, t) ∧ t.ctl.vabToPwm = h.vabToPwm ∧
      RegsFixedBut [.vabToPwm, .idReq, .iqReq] s t ∧ t.foc.idReq = id ∧ t.foc.iqReq = iq := by
  let gained := (Reg.vabToPwm.write h.vabToPwm s).respond .ok
  let direct := (Reg.idReq.write id gained).respond .ok
  refine ⟨(Reg.iqReq.write iq direct).respond .ok, ?_, rfl, ?_, rfl, rfl⟩
  · calc (slowWrites h id iq).run s
      _ = (HostProg.wr .idReq id (.wr .iqReq iq (.done h))).run gained := HostProg.run_wr rfl _ _ seen
      _ = (HostProg.wr .iqReq iq (.done h)).run direct := HostProg.run_wr rfl _ _ seen
      _ = some (h, (Reg.iqReq.write iq direct).respond .ok) := HostProg.run_wr rfl _ _ seen
  · exact ((regsFixedBut_write .vabToPwm _ s).trans (regsFixedBut_write .idReq id gained)).trans
      (regsFixedBut_write .iqReq iq direct)

/-- From the field-weakening part on a step runs to its end (46_host_interface.md R388 to R390). -/
theorem slowTail_run (q : Nat → BitVec 23) (h : SlowHost) (iq : Word) {s : State} (seen : s.resetSeen = true) :
    ∃ t, (slowTail q h iq).run s = some (h, t) ∧ EndsSlowStep q h iq s t := by
  obtain ⟨t, run, gain, regs, idReq, iqReq⟩ := slowWrites_run h (fieldWeakening q h s.foc.vq s.foc.vqMax)
    (powerLimited q h s.foc.vd s.foc.vq (fieldWeakening q h s.foc.vq s.foc.vqMax) iq)
    (s := (((s.respond (.data s.foc.vq)).respond (.data s.foc.vqMax)).respond (.data s.foc.vd)).respond (.data s.foc.vq))
    seen
  refine ⟨t, ?_, gain, regs, idReq, iqReq⟩
  exact HostProg.run_rd_of_rest seen <| HostProg.run_rd_of_rest seen <| HostProg.run_rd_of_rest seen <|
    HostProg.run_rd_of_rest seen run

/-- The reference that the throttle gives (46_host_interface.md R387). -/
def throttleReference (q : Nat → BitVec 23) (h : SlowHost) (s : State) : Word :=
  if F32.gt h.throttle h.thrDb then throttleCurrent q h s.mot.iMax else F32.zero false

/-- From the throttle part on a step runs to its end (46_host_interface.md R387 to R390). -/
theorem slowThrottle_run (q : Nat → BitVec 23) (h : SlowHost) {s : State} (seen : s.resetSeen = true) :
    ∃ t, (slowThrottle q h).run s = some (h, t) ∧ EndsSlowStep q h (throttleReference q h s) s t := by
  unfold slowThrottle throttleReference
  split
  · rw [HostProg.run_rd _ _ seen]
    obtain ⟨t, run, gain, regs, idReq, iqReq⟩ := slowTail_run q h (throttleCurrent q h s.mot.iMax)
      (s := s.respond (.data s.mot.iMax)) seen
    exact ⟨t, run, gain, regs, idReq, iqReq⟩
  · exact slowTail_run q h _ seen

/-- The host after the gain part of a step: it keeps its gain where the bus voltage is not positive (46_host_interface.md
R386). -/
def SlowHost.regained (q : Nat → BitVec 23) (h : SlowHost) (s : State) : SlowHost :=
  { h with
    vabToPwm :=
      if F32.gt s.pipe.phys.vbus (F32.zero false) then dutyGain (q 0) (s.ctl.pwmFull.setWidth 32) s.pipe.phys.vbus
      else h.vabToPwm }

/-- A step runs to its end (46_host_interface.md R385 to R390). -/
theorem slowLoop_run (q : Nat → BitVec 23) (h : SlowHost) {s : State} (seen : s.resetSeen = true) :
    ∃ t, (slowLoop q h).run s = some (h.regained q s, t) ∧
      EndsSlowStep q (h.regained q s) (throttleReference q (h.regained q s) s) s t := by
  by_cases positive : F32.gt s.pipe.phys.vbus (F32.zero false) = true
  · rw [show h.regained q s = { h with vabToPwm := dutyGain (q 0) (s.ctl.pwmFull.setWidth 32) s.pipe.phys.vbus } from
      congrArg (fun gain => { h with vabToPwm := gain }) (if_pos positive)]
    obtain ⟨t, run, gain, regs, idReq, iqReq⟩ := slowThrottle_run q
      { h with vabToPwm := dutyGain (q 0) (s.ctl.pwmFull.setWidth 32) s.pipe.phys.vbus }
      (s := (s.respond (.data s.pipe.phys.vbus)).respond (.data (s.ctl.pwmFull.setWidth 32))) seen
    refine ⟨t, HostProg.run_rd_of_rest seen ?_, gain, regs, idReq, iqReq⟩
    exact (congrArg (HostProg.run · _) (if_pos positive)).trans (HostProg.run_rd_of_rest seen run)
  · rw [show h.regained q s = h from congrArg (fun gain => { h with vabToPwm := gain }) (if_neg positive)]
    obtain ⟨t, run, gain, regs, idReq, iqReq⟩ := slowThrottle_run q h (s := s.respond (.data s.pipe.phys.vbus)) seen
    refine ⟨t, HostProg.run_rd_of_rest seen ?_, gain, regs, idReq, iqReq⟩
    exact (congrArg (HostProg.run · _) (if_neg positive)).trans run

/-- The references do not depend on the host's gain. -/
theorem references_regained (q : Nat → BitVec 23) (h : SlowHost) (s : State) :
    (∀ vq vmax, fieldWeakening q (h.regained q s) vq vmax = fieldWeakening q h vq vmax) ∧
      (∀ vd vq id iq, powerLimited q (h.regained q s) vd vq id iq = powerLimited q h vd vq id iq) ∧
      throttleReference q (h.regained q s) s = throttleReference q h s :=
  ⟨fun _ _ => rfl, fun _ _ _ _ => rfl, rfl⟩

/-- Settles O59: the step's values are R386's to R389's formulas. -/
theorem slowLoopWritesReferences : Obligations.SlowLoopWritesReferences := by
  intro s h q seen
  obtain ⟨t, run, gain, regs, idReq, iqReq⟩ := slowLoop_run q h seen
  obtain ⟨weakening, limited, throttle⟩ := references_regained q h s
  rw [weakening] at idReq iqReq
  rw [limited, throttle] at iqReq
  have full : (s.ctl.pwmFull.setWidth 32).toNat = s.ctl.pwmFull.toNat :=
    BitVec.toNat_setWidth_of_le (by decide)
  refine ⟨h.regained q s, t, run, ?gain, gain, regs, idReq, ?iqReq⟩
  case iqReq =>
    rw [iqReq]
    unfold powerLimited fieldWeakening throttleReference throttleCurrent powerFactor fieldWeakFraction
    rw [show F32.zero false = 0 from rfl]
  case gain =>
    unfold SlowHost.regained dutyGain
    dsimp only
    rw [full]
    rfl

/-! ## The storage -/

/-- Bit 13 of STATUS is DIRTY (10_state.md R37). -/
theorem Reg.read_status_dirty (s : State) : (Reg.status.read s).getLsbD 13 = s.ctl.status.dirty := by
  simp only [Reg.read, Status.toWord, BitVec.getLsbD_append]
  simp

/-- Reading registers one after another runs to the list of their values, and changes only the responses
(46_host_interface.md R370). -/
theorem readAll_run (rs : List Reg) (vs : List Word) {s : State} (seen : s.resetSeen = true) :
    ∃ t, (readAll rs vs).run s = some (some (vs ++ rs.map fun r => r.read s), t) ∧ t.ctl = s.ctl := by
  induction rs generalizing vs s with
  | nil => exact ⟨s, by rw [List.map_nil, List.append_nil]; rfl, rfl⟩
  | cons r rs ih =>
    obtain ⟨t, run, ctl⟩ := ih (vs ++ [r.read s]) (s := s.respond (.data (r.read s))) seen
    refine ⟨t, HostProg.run_rd_of_rest seen (run.trans ?_), ctl⟩
    simp only [List.map_cons, List.append_assoc, List.singleton_append, Reg.read_respond]

/-- The host's WR to CMD with bit 1 set clears DIRTY (46_host_interface.md R377). -/
theorem run_clearDirty {α : Type} (k : HostProg α) {s : State} (seen : s.resetSeen = true) :
    (HostProg.wr .cmd 2 k).run s = k.run ((clearDirtyFlag s).respond .ok) := by
  have word : decodeWr Reg.cmd.busAddr 2 = .clearDirty 0 := decodeWr_of_clearDirty (v := 2) rfl rfl
  simp only [HostProg.run, word, exec_clearDirty_of_seen seen]

/-- Clearing DIRTY changes no stored register. -/
theorem read_clearDirtyFlag {r : Reg} (h : r ∈ storedRegs) (s : State) : r.read (clearDirtyFlag s) = r.read s := by
  obtain ⟨kept, -⟩ := uopFrame_onStatus (fun x => { x with dirty := false }) s
  exact kept r fun mem => absurd (List.mem_singleton.mp mem ▸ h) (by decide)

/-- A save with DIRTY set runs to the stored registers' values and clears DIRTY (46_host_interface.md R392). -/
theorem storageSave_run {s : State} (seen : s.resetSeen = true) (dirty : s.ctl.status.dirty = true) :
    ∃ t, storageSave.run s = some (some (storedRegs.map fun r => r.read s), t) ∧ t.ctl.status.dirty = false := by
  let cleared := (clearDirtyFlag (s.respond (.data (Reg.status.read s)))).respond .ok
  obtain ⟨t, run, ctl⟩ := readAll_run storedRegs [] (s := cleared) seen
  have values : (storedRegs.map fun r => r.read cleared) = storedRegs.map fun r => r.read s :=
    List.map_congr_left fun r mem => read_clearDirtyFlag mem _
  rw [List.nil_append, values] at run
  have set : (Reg.status.read s).getLsbD 13 = true := (Reg.read_status_dirty s).trans dirty
  refine ⟨t, HostProg.run_rd_of_rest seen ?_, by rw [ctl]; rfl⟩
  exact (congrArg (HostProg.run · _) (if_pos set)).trans (Eq.trans (run_clearDirty _ seen) run)

/-- Writing RW registers one after another goes on from a state in which each reads its value, under its field mask, and
every other register is as before (46_host_interface.md R371). -/
theorem writeAll_run {α : Type} {ws : List (Reg × Word)} (writable : ∀ w ∈ ws, w.1.access = .rw)
    (nodup : (ws.map Prod.fst).Nodup) (k : HostProg α) {s : State} (seen : s.resetSeen = true) :
    ∃ t, (writeAll ws k).run s = k.run t ∧ t.resetSeen = true ∧ (∀ w ∈ ws, w.1.read t = w.2 &&& w.1.fieldMask) ∧
      RegsFixedBut (ws.map Prod.fst) s t := by
  induction ws generalizing s with
  | nil => exact ⟨s, rfl, seen, nofun, .refl _ s⟩
  | cons w ws ih =>
    obtain ⟨r, v⟩ := w
    obtain ⟨fresh, nodup⟩ := List.nodup_cons.mp nodup
    have first : r.access = .rw := writable (r, v) List.mem_cons_self
    obtain ⟨-, ⟨seen', -⟩, -⟩ := r.write_keeps v s
    obtain ⟨t, run, seenEnd, values, kept⟩ := ih (fun w mem => writable w (List.mem_cons_of_mem _ mem)) nodup
      (s := (r.write v s).respond .ok) (seen'.trans seen)
    refine ⟨t, (HostProg.run_wr first v _ seen).trans run, seenEnd, ?_, (regsFixedBut_write r v s).trans kept⟩
    rintro w (mem | ⟨_, mem⟩)
    · exact (kept r fresh).trans (Reg.read_write_same first v s)
    · exact values w mem

/-- The stored registers are RW and hold whole words (10_state.md R31). -/
theorem storedRegs_rw : ∀ r ∈ storedRegs, r.access = .rw ∧ r.fieldMask = BitVec.allOnes 32 := by decide

/-- Two words of two halves are the same only where both halves are. -/
theorem append_halves_inj {a b c d : Half} (h : a ++ b = c ++ d) : a = c ∧ b = d := by
  have high := congrArg (BitVec.extractLsb' 16 16) h
  have low := congrArg (BitVec.extractLsb' 0 16) h
  rw [BitVec.extractLsb'_append_eq_left, BitVec.extractLsb'_append_eq_left] at high
  rw [BitVec.extractLsb'_append_eq_right, BitVec.extractLsb'_append_eq_right] at low
  exact ⟨high, low⟩

/-- A table is made of its sectors. -/
theorem Sector.ofFn_get {α : Type} (x : Sector α) : Sector.ofFn x.get = x := rfl

/-- The two registers of every sector are among the stored ones (46_host_interface.md R392). -/
theorem hallTable_mem_storedRegs : ∀ k : Fin 6, .htSe k ∈ storedRegs ∧ .htCw k ∈ storedRegs := by decide

/-- The stored registers tell the Hall table and the motor parameters but I_MAX (46_host_interface.md R392). -/
theorem mot_eq_of_stored {s t : State} (same : ∀ r ∈ storedRegs, r.read t = r.read s) :
    t.mot.ht = s.mot.ht ∧ t.mot.rPhase = s.mot.rPhase ∧ t.mot.lPhase = s.mot.lPhase ∧
      t.mot.fluxLink = s.mot.fluxLink := by
  refine ⟨?_, same .rPhase (by decide), same .lPhase (by decide), same .fluxLink (by decide)⟩
  have entries : t.mot.ht.get = s.mot.ht.get := funext fun k => by
    obtain ⟨se, cw⟩ := hallTable_mem_storedRegs k
    obtain ⟨stop, start⟩ := append_halves_inj (same _ se)
    obtain ⟨width, center⟩ := append_halves_inj (same _ cw)
    exact (HallEntry.mk.injEq ..).mpr ⟨start, stop, center, width⟩
  rw [← Sector.ofFn_get t.mot.ht, entries, Sector.ofFn_get]

/-- Settles O60: the registers read back what the save read. -/
theorem storageRoundTrip : Obligations.StorageRoundTrip := by
  intro s u wanted seen seen' dirty
  obtain ⟨t, saved, clean⟩ := storageSave_run seen dirty
  let pairs := storedRegs.map fun r => (r, r.read s)
  have zipped : storedRegs.zip (storedRegs.map fun r => r.read s) = pairs := List.map_prod_left_eq_zip.symm
  have keys : pairs.map Prod.fst = storedRegs := by
    rw [List.map_map]
    exact List.map_id _
  obtain ⟨x, loads, seenLoaded, values, -⟩ := writeAll_run (ws := pairs)
    (List.forall_mem_map.mpr fun r mem => (storedRegs_rw r mem).1) (by rw [keys]; decide)
    (.wr .ctrl (if wanted then 3 else 2) (.done ())) seen'
  have loaded (r : Reg) (mem : r ∈ storedRegs) : r.read x = r.read s := by
    obtain ⟨-, whole⟩ := storedRegs_rw r mem
    rw [values (r, r.read s) (List.mem_map.mpr ⟨r, mem, rfl⟩), whole, BitVec.and_allOnes]
  obtain ⟨ht, rPhase, lPhase, fluxLink⟩ := mot_eq_of_stored loaded
  refine ⟨_, t, (Reg.ctrl.write (if wanted then 3 else 2) x).respond .ok, saved, rfl, clean, ?_, ht, rPhase, lPhase,
    fluxLink, ?_, ?_⟩
  · unfold storageLoad
    rw [zipped, loads, HostProg.run_wr rfl _ _ seenLoaded]
    rfl
  · cases wanted <;> rfl
  · cases wanted <;> rfl

end Sys2Proof.Machine
end
